-- ==== Sys2Proof/Word.lean ====
section
/-! DEFINITION. The two machine word types of the Y80 (spec 00_scope.md R4, R5): 8-bit data and 16-bit
addresses. All arithmetic on them is `BitVec` arithmetic, which wraps (R13). -/

namespace Sys2Proof

/-- An 8-bit value: a register, a memory cell, an I/O datum (R4). Bit 0 is the least significant (R5). -/
abbrev Byte := BitVec 8

/-- A 16-bit value: a register pair, IX, IY, SP, PC, a memory address or an I/O port (R4). -/
abbrev Word := BitVec 16

end Sys2Proof
end

