-- ==== Sys2Proof/Config.lean ====
section
/-! DEFINITION. What the spec leaves to an implementation or to the platform: free values (opaque, no body),
and the values this model names where the spec gives none. -/

namespace Sys2Proof

/-- FREE VALUE `any8()` (R5, D2, D3): the n-th draw of the run. Nothing constrains it. The counter is
`State.draws`; every draw advances it, so no two draws share an argument (log entry 2). -/
opaque Config.anyByte : Nat → Byte

/-- FREE VALUE: the byte an I/O read of a port returns when no input byte is queued in `State.ioIn`
(R64, D23). Its first argument is the draw counter, so two reads of one port may differ (log entry 3). -/
opaque Config.ioByte : Nat → Word → Byte

/-- FREE VALUE: the byte a read of a memory address without storage returns when no input byte is queued in `State.memIn`
(R14, D13). Its first argument is the draw counter, so two reads of one address may differ (log entry 7). -/
opaque Config.memByte : Nat → Word → Byte

/-- FREE VALUE: whether the next iteration of a repeating block instruction reads its two opcode bytes again (R290, D15; log
entry 17). -/
opaque Config.refetches : Nat → Bool

/-- FREE VALUE: how many memory reads an instruction makes whose data it discards and that no rule lists (R68, D11; log
entry 8). -/
opaque Config.unlistedReads : Nat → Nat

/-- FREE VALUE: how many idle bus transactions an instruction makes (R78, D20; log entry 8). -/
opaque Config.unlistedIdles : Nat → Nat

/-- FREE VALUE: the byte on `ivec_data_in` at an acknowledge for which no sample is queued in `State.inputs` (R36, D23). Its
argument is the number of bus transactions so far, so two acknowledges may differ (log entry 31). -/
opaque Config.idleVector : Nat → Byte

/-- `RESET_I` (R4, R41). DESIGN CHOICE: the spec gives no value (log entry 5, unsafe). -/
def Config.resetI : Byte := 0x00#8

/-- `RESET_R` (R4, R41). DESIGN CHOICE: the spec gives no value (log entry 5, unsafe). -/
def Config.resetR : Byte := 0x00#8

/-- `RESET_SP` (R4, R41). DESIGN CHOICE: the spec gives no value (log entry 5, unsafe). -/
def Config.resetSp : Word := 0x0000#16

/-- What every 8-bit register that only `clearb` initialises holds after power-on (R41, R452).
DESIGN CHOICE: the spec gives no value (log entry 5, unsafe). -/
def Config.powerOnByte : Byte := 0x00#8

/-- What IX and IY hold after power-on (R41, R452). DESIGN CHOICE: the spec gives no value
(log entry 5, unsafe). -/
def Config.powerOnWord : Word := 0x0000#16

/-- What a memory cell that nothing has written reads as (R41, D22 give no contents).
DESIGN CHOICE (log entry 6, unsafe). -/
def Config.unlistedByte : Byte := 0x00#8

end Sys2Proof
end

