-- ==== Sys2Proof/Machine/Bits.lean ====
section
/-! DEFINITION. Byte order and extension: how bytes make a word and a byte makes a signed word (00_scope.md R5). -/

namespace Sys2Proof.Machine

/-- `{hi, lo}`: the word with `hi` in its more significant half (R5). -/
def word16 (hi lo : Byte) : Word := hi ++ lo

/-- Bits 15..8 of a word. -/
def hiByte (w : Word) : Byte := w.extractLsb' 8 8

/-- Bits 7..0 of a word. -/
def loByte (w : Word) : Byte := w.extractLsb' 0 8

/-- `sext_16`: an 8-bit value sign-extended to 16 bits (R5). -/
def sext16 (v : Byte) : Word := v.signExtend 16

end Sys2Proof.Machine
end

