-- ==== Sys2Proof/Syntax.lean ====
section
/-! DEFINITION. The instructions of the Y80 as syntax: one constructor per row of spec/opcode_table.json. Operands
are what the assembler names (30_encoding.md R92 to R101): registers and conditions are names, not codes. -/

namespace Sys2Proof

/-- The 8-bit registers an `rrr` field selects (R92); code 110 selects none. -/
inductive Reg8 where
  | b | c | d | e | h | l | a
  deriving DecidableEq, Repr

/-- The word registers of the `dd` and `ss` fields (R93). -/
inductive RegDD where
  | bc | de | hl | sp
  deriving DecidableEq, Repr

/-- The word registers of the `tt` field, PUSH and POP only (R93). -/
inductive RegTT where
  | bc | de | hl | af
  deriving DecidableEq, Repr

/-- The word registers of the `xx` field, ADD IX,xx only (R93). -/
inductive RegXX where
  | bc | de | ix | sp
  deriving DecidableEq, Repr

/-- The word registers of the `yy` field, ADD IY,yy only (R93). -/
inductive RegYY where
  | bc | de | iy | sp
  deriving DecidableEq, Repr

/-- The eight conditions of JP cc, CALL cc and RET cc (R100). -/
inductive Cond where
  | nz | z | nc | c | po | pe | p | m
  deriving DecidableEq, Repr

/-- The four conditions of JR cc (R101). -/
inductive CC where
  | nz | z | nc | c
  deriving DecidableEq, Repr

/-- One instruction. `n` is an immediate or port byte, `mn` a 16-bit immediate or address, `d` the displacement
byte of an indexed operand (signed, R98), `e` the distance of a relative jump from its own address (R99), `b` a bit
number (R95), `v` a restart address (R101). -/
inductive Instr where
  -- 8-bit loads (spec 40_load8.md)
  /-- `LD r,r'` (R130). -/
  | ldRR (rd : Reg8) (rs : Reg8)
  /-- `LD r,n` (R131). -/
  | ldRN (r : Reg8) (n : Byte)
  /-- `LD r,(HL)` (R132). -/
  | ldRHlInd (r : Reg8)
  /-- `LD r,(IX+d)` (R133). -/
  | ldRIxInd (r : Reg8) (d : Byte)
  /-- `LD r,(IY+d)` (R133). -/
  | ldRIyInd (r : Reg8) (d : Byte)
  /-- `LD (HL),r` (R134). -/
  | ldHlIndR (r : Reg8)
  /-- `LD (IX+d),r` (R135). -/
  | ldIxIndR (d : Byte) (r : Reg8)
  /-- `LD (IY+d),r` (R135). -/
  | ldIyIndR (d : Byte) (r : Reg8)
  /-- `LD (HL),n` (R136). -/
  | ldHlIndN (n : Byte)
  /-- `LD (IX+d),n` (R137). -/
  | ldIxIndN (d : Byte) (n : Byte)
  /-- `LD (IY+d),n` (R137). -/
  | ldIyIndN (d : Byte) (n : Byte)
  /-- `LD A,(BC)` (R138). -/
  | ldABcInd
  /-- `LD A,(DE)` (R139). -/
  | ldADeInd
  /-- `LD A,(mn)` (R140). -/
  | ldAMnInd (mn : Word)
  /-- `LD (BC),A` (R141). -/
  | ldBcIndA
  /-- `LD (DE),A` (R142). -/
  | ldDeIndA
  /-- `LD (mn),A` (R143). -/
  | ldMnIndA (mn : Word)
  /-- `LD A,I` (R144). -/
  | ldAIReg
  /-- `LD A,R` (R145). -/
  | ldARReg
  /-- `LD I,A` (R146). -/
  | ldIRegA
  /-- `LD R,A` (R147). -/
  | ldRRegA
  -- 16-bit loads, stack and exchange (spec 41_load16_stack_exchange.md)
  /-- `LD dd,mn` (R160). -/
  | ldDdMn (dd : RegDD) (mn : Word)
  /-- `LD IX,mn` (R161). -/
  | ldIxMn (mn : Word)
  /-- `LD IY,mn` (R161). -/
  | ldIyMn (mn : Word)
  /-- `LD HL,(mn)` (R162). -/
  | ldHlMnInd (mn : Word)
  /-- `LD dd,(mn)` (R163). -/
  | ldDdMnInd (dd : RegDD) (mn : Word)
  /-- `LD IX,(mn)` (R164). -/
  | ldIxMnInd (mn : Word)
  /-- `LD IY,(mn)` (R164). -/
  | ldIyMnInd (mn : Word)
  /-- `LD (mn),HL` (R165). -/
  | ldMnIndHl (mn : Word)
  /-- `LD (mn),ss` (R166). -/
  | ldMnIndSs (mn : Word) (ss : RegDD)
  /-- `LD (mn),IX` (R167). -/
  | ldMnIndIx (mn : Word)
  /-- `LD (mn),IY` (R167). -/
  | ldMnIndIy (mn : Word)
  /-- `LD SP,HL` (R168). -/
  | ldSpHl
  /-- `PUSH tt` (R169). -/
  | pushTt (tt : RegTT)
  /-- `PUSH IX` (R169). -/
  | pushIx
  /-- `PUSH IY` (R169). -/
  | pushIy
  /-- `POP tt` (R170). -/
  | popTt (tt : RegTT)
  /-- `POP IX` (R170). -/
  | popIx
  /-- `POP IY` (R170). -/
  | popIy
  /-- `LD SP,IX` (R171). -/
  | ldSpIx
  /-- `LD SP,IY` (R171). -/
  | ldSpIy
  /-- `EX AF,AF'` (R173). -/
  | exAfAf
  /-- `EXX` (R174). -/
  | exx
  /-- `EX DE,HL` (R175). -/
  | exDeHl
  /-- `EX (SP),HL` (R176). -/
  | exSpIndHl
  /-- `EX (SP),IX` (R177). -/
  | exSpIndIx
  /-- `EX (SP),IY` (R177). -/
  | exSpIndIy
  -- 8-bit arithmetic and logic (spec 42_alu8.md)
  /-- `ADD A,r` (R191). -/
  | addAR (r : Reg8)
  /-- `ADD A,(HL)` (R191). -/
  | addAHlInd
  /-- `ADD A,n` (R191). -/
  | addAN (n : Byte)
  /-- `ADD A,(IX+d)` (R191). -/
  | addAIxInd (d : Byte)
  /-- `ADD A,(IY+d)` (R191). -/
  | addAIyInd (d : Byte)
  /-- `ADC A,r` (R192). -/
  | adcAR (r : Reg8)
  /-- `ADC A,(HL)` (R192). -/
  | adcAHlInd
  /-- `ADC A,n` (R192). -/
  | adcAN (n : Byte)
  /-- `ADC A,(IX+d)` (R192). -/
  | adcAIxInd (d : Byte)
  /-- `ADC A,(IY+d)` (R192). -/
  | adcAIyInd (d : Byte)
  /-- `SUB A,r` (R193). -/
  | subAR (r : Reg8)
  /-- `SUB A,(HL)` (R193). -/
  | subAHlInd
  /-- `SUB A,n` (R193). -/
  | subAN (n : Byte)
  /-- `SUB A,(IX+d)` (R193). -/
  | subAIxInd (d : Byte)
  /-- `SUB A,(IY+d)` (R193). -/
  | subAIyInd (d : Byte)
  /-- `SBC A,r` (R194). -/
  | sbcAR (r : Reg8)
  /-- `SBC A,(HL)` (R194). -/
  | sbcAHlInd
  /-- `SBC A,n` (R194). -/
  | sbcAN (n : Byte)
  /-- `SBC A,(IX+d)` (R194). -/
  | sbcAIxInd (d : Byte)
  /-- `SBC A,(IY+d)` (R194). -/
  | sbcAIyInd (d : Byte)
  /-- `AND A,r` (R195). -/
  | andAR (r : Reg8)
  /-- `AND A,(HL)` (R195). -/
  | andAHlInd
  /-- `AND A,n` (R195). -/
  | andAN (n : Byte)
  /-- `AND A,(IX+d)` (R195). -/
  | andAIxInd (d : Byte)
  /-- `AND A,(IY+d)` (R195). -/
  | andAIyInd (d : Byte)
  /-- `XOR A,r` (R196). -/
  | xorAR (r : Reg8)
  /-- `XOR A,(HL)` (R196). -/
  | xorAHlInd
  /-- `XOR A,n` (R196). -/
  | xorAN (n : Byte)
  /-- `XOR A,(IX+d)` (R196). -/
  | xorAIxInd (d : Byte)
  /-- `XOR A,(IY+d)` (R196). -/
  | xorAIyInd (d : Byte)
  /-- `OR A,r` (R197). -/
  | orAR (r : Reg8)
  /-- `OR A,(HL)` (R197). -/
  | orAHlInd
  /-- `OR A,n` (R197). -/
  | orAN (n : Byte)
  /-- `OR A,(IX+d)` (R197). -/
  | orAIxInd (d : Byte)
  /-- `OR A,(IY+d)` (R197). -/
  | orAIyInd (d : Byte)
  /-- `CP A,r` (R198). -/
  | cpAR (r : Reg8)
  /-- `CP A,(HL)` (R198). -/
  | cpAHlInd
  /-- `CP A,n` (R198). -/
  | cpAN (n : Byte)
  /-- `CP A,(IX+d)` (R198). -/
  | cpAIxInd (d : Byte)
  /-- `CP A,(IY+d)` (R198). -/
  | cpAIyInd (d : Byte)
  /-- `INC r` (R199). -/
  | incR (r : Reg8)
  /-- `INC (HL)` (R199). -/
  | incHlInd
  /-- `INC (IX+d)` (R199). -/
  | incIxInd (d : Byte)
  /-- `INC (IY+d)` (R199). -/
  | incIyInd (d : Byte)
  /-- `DEC r` (R200). -/
  | decR (r : Reg8)
  /-- `DEC (HL)` (R200). -/
  | decHlInd
  /-- `DEC (IX+d)` (R200). -/
  | decIxInd (d : Byte)
  /-- `DEC (IY+d)` (R200). -/
  | decIyInd (d : Byte)
  /-- `DAA` (R201). -/
  | daa
  /-- `CPL` (R202). -/
  | cpl
  /-- `NEG` (R203). -/
  | neg
  /-- `CCF` (R204). -/
  | ccf
  /-- `SCF` (R205). -/
  | scf
  -- 16-bit arithmetic (spec 43_alu16.md)
  /-- `ADD HL,ss` (R230). -/
  | addHlSs (ss : RegDD)
  /-- `ADD IX,xx` (R231). -/
  | addIxXx (xx : RegXX)
  /-- `ADD IY,yy` (R231). -/
  | addIyYy (yy : RegYY)
  /-- `ADC HL,ss` (R232). -/
  | adcHlSs (ss : RegDD)
  /-- `SBC HL,ss` (R233). -/
  | sbcHlSs (ss : RegDD)
  /-- `INC ss` (R234). -/
  | incSs (dd : RegDD)
  /-- `INC IX` (R235). -/
  | incIx
  /-- `INC IY` (R235). -/
  | incIy
  /-- `DEC ss` (R236). -/
  | decSs (dd : RegDD)
  /-- `DEC IX` (R237). -/
  | decIx
  /-- `DEC IY` (R237). -/
  | decIy
  -- Rotates, shifts, digit rotates and bits (spec 44_rotate_shift_bit.md)
  /-- `RLCA` (R251). -/
  | rlca
  /-- `RLA` (R252). -/
  | rla
  /-- `RRCA` (R253). -/
  | rrca
  /-- `RRA` (R254). -/
  | rra
  /-- `RLC r` (R255). -/
  | rlcR (r : Reg8)
  /-- `RLC (HL)` (R255). -/
  | rlcHlInd
  /-- `RLC (IX+d)` (R255). -/
  | rlcIxInd (d : Byte)
  /-- `RLC (IY+d)` (R255). -/
  | rlcIyInd (d : Byte)
  /-- `RL r` (R256). -/
  | rlR (r : Reg8)
  /-- `RL (HL)` (R256). -/
  | rlHlInd
  /-- `RL (IX+d)` (R256). -/
  | rlIxInd (d : Byte)
  /-- `RL (IY+d)` (R256). -/
  | rlIyInd (d : Byte)
  /-- `RRC r` (R257). -/
  | rrcR (r : Reg8)
  /-- `RRC (HL)` (R257). -/
  | rrcHlInd
  /-- `RRC (IX+d)` (R257). -/
  | rrcIxInd (d : Byte)
  /-- `RRC (IY+d)` (R257). -/
  | rrcIyInd (d : Byte)
  /-- `RR r` (R258). -/
  | rrR (r : Reg8)
  /-- `RR (HL)` (R258). -/
  | rrHlInd
  /-- `RR (IX+d)` (R258). -/
  | rrIxInd (d : Byte)
  /-- `RR (IY+d)` (R258). -/
  | rrIyInd (d : Byte)
  /-- `SLA r` (R259). -/
  | slaR (r : Reg8)
  /-- `SLA (HL)` (R259). -/
  | slaHlInd
  /-- `SLA (IX+d)` (R259). -/
  | slaIxInd (d : Byte)
  /-- `SLA (IY+d)` (R259). -/
  | slaIyInd (d : Byte)
  /-- `SRA r` (R260). -/
  | sraR (r : Reg8)
  /-- `SRA (HL)` (R260). -/
  | sraHlInd
  /-- `SRA (IX+d)` (R260). -/
  | sraIxInd (d : Byte)
  /-- `SRA (IY+d)` (R260). -/
  | sraIyInd (d : Byte)
  /-- `SRL r` (R261). -/
  | srlR (r : Reg8)
  /-- `SRL (HL)` (R261). -/
  | srlHlInd
  /-- `SRL (IX+d)` (R261). -/
  | srlIxInd (d : Byte)
  /-- `SRL (IY+d)` (R261). -/
  | srlIyInd (d : Byte)
  /-- `RLD` (R262). -/
  | rld
  /-- `RRD` (R263). -/
  | rrd
  /-- `BIT b,r` (R264). -/
  | bitR (b : Nat) (r : Reg8)
  /-- `BIT b,(HL)` (R264). -/
  | bitHlInd (b : Nat)
  /-- `BIT b,(IX+d)` (R264). -/
  | bitIxInd (b : Nat) (d : Byte)
  /-- `BIT b,(IY+d)` (R264). -/
  | bitIyInd (b : Nat) (d : Byte)
  /-- `SET b,r` (R265). -/
  | setR (b : Nat) (r : Reg8)
  /-- `SET b,(HL)` (R265). -/
  | setHlInd (b : Nat)
  /-- `SET b,(IX+d)` (R265). -/
  | setIxInd (b : Nat) (d : Byte)
  /-- `SET b,(IY+d)` (R265). -/
  | setIyInd (b : Nat) (d : Byte)
  /-- `RES b,r` (R266). -/
  | resR (b : Nat) (r : Reg8)
  /-- `RES b,(HL)` (R266). -/
  | resHlInd (b : Nat)
  /-- `RES b,(IX+d)` (R266). -/
  | resIxInd (b : Nat) (d : Byte)
  /-- `RES b,(IY+d)` (R266). -/
  | resIyInd (b : Nat) (d : Byte)
  -- Block transfer and search (spec 45_block.md)
  /-- `LDI` (R291). -/
  | ldi
  /-- `LDIR` (R292). -/
  | ldir
  /-- `LDD` (R293). -/
  | ldd
  /-- `LDDR` (R294). -/
  | lddr
  /-- `CPI` (R295). -/
  | cpi
  /-- `CPIR` (R296). -/
  | cpir
  /-- `CPD` (R297). -/
  | cpd
  /-- `CPDR` (R298). -/
  | cpdr
  -- Control transfer (spec 46_control_transfer.md)
  /-- `JP mn` (R310). -/
  | jpMn (mn : Word)
  /-- `JP cc,mn` (R311). -/
  | jpCcMn (cc : Cond) (mn : Word)
  /-- `JP (HL)` (R312). -/
  | jpHl
  /-- `JP (IX)` (R313). -/
  | jpIx
  /-- `JP (IY)` (R313). -/
  | jpIy
  /-- `JR e` (R314). -/
  | jr (e : Int)
  /-- `JR cc,e` (R315). -/
  | jrCc (cc : CC) (e : Int)
  /-- `DJNZ e` (R316). -/
  | djnz (e : Int)
  /-- `CALL mn` (R317). -/
  | callMn (mn : Word)
  /-- `CALL cc,mn` (R318). -/
  | callCcMn (cc : Cond) (mn : Word)
  /-- `RET` (R319). -/
  | ret
  /-- `RET cc` (R320). -/
  | retCc (cc : Cond)
  /-- `RETI` (R321). -/
  | reti
  /-- `RETN` (R322). -/
  | retn
  /-- `RST v` (R323). -/
  | rst (v : Byte)
  -- Input and output (spec 47_io.md)
  /-- `IN A,(n)` (R340). -/
  | inAN (n : Byte)
  /-- `IN r,(C)` (R341). -/
  | inRC (r : Reg8)
  /-- `OUT (n),A` (R342). -/
  | outNA (n : Byte)
  /-- `OUT (C),r` (R343). -/
  | outCR (r : Reg8)
  /-- `INI` (R344). -/
  | ini
  /-- `INIR` (R345). -/
  | inir
  /-- `IND` (R346). -/
  | ind
  /-- `INDR` (R347). -/
  | indr
  /-- `OUTI` (R348). -/
  | outi
  /-- `OTIR` (R349). -/
  | otir
  /-- `OUTD` (R350). -/
  | outd
  /-- `OTDR` (R351). -/
  | otdr
  -- CPU control (spec 48_cpu_control.md)
  /-- `NOP` (R370). -/
  | nop
  /-- `HALT` (R371). -/
  | halt
  /-- `DI` (R372). -/
  | di
  /-- `EI` (R373). -/
  | ei
  /-- `IM 0` (R374). -/
  | im0
  /-- `IM 1` (R375). -/
  | im1
  /-- `IM 2` (R376). -/
  | im2
  deriving DecidableEq, Repr

end Sys2Proof
end

