-- ==== Sys2Proof/WellFormed.lean ====
section
/-! DEFINITION. Which instructions an encoding exists for: the operands whose type is wider than their field are
checked against the range the spec gives the field. -/

namespace Sys2Proof

/-- The bit numbers of BIT, SET and RES: 0 to 7 (R95). -/
def bitNumberOk (b : Nat) : Bool := decide (b < 8)

/-- The distances a relative jump can name: -126 to +129 from its own address (R99). -/
def distanceOk (e : Int) : Bool := decide (-126 ≤ e) && decide (e ≤ 129)

/-- The eight restart addresses of RST (R101). -/
def restartOk (v : Byte) : Bool :=
  [0x00#8, 0x08#8, 0x10#8, 0x18#8, 0x20#8, 0x28#8, 0x30#8, 0x38#8].contains v

/-- The instruction has an encoding. -/
def Instr.wellFormed : Instr → Bool
  -- 8-bit loads (spec 40_load8.md)
  | .ldRR _ _ | .ldRN _ _ | .ldRHlInd _ | .ldRIxInd _ _ | .ldRIyInd _ _ | .ldHlIndR _ | .ldIxIndR _ _
  | .ldIyIndR _ _ | .ldHlIndN _ | .ldIxIndN _ _ | .ldIyIndN _ _ | .ldABcInd | .ldADeInd | .ldAMnInd _
  | .ldBcIndA | .ldDeIndA | .ldMnIndA _ | .ldAIReg | .ldARReg | .ldIRegA | .ldRRegA => true
  -- 16-bit loads, stack and exchange (spec 41_load16_stack_exchange.md)
  | .ldDdMn _ _ | .ldIxMn _ | .ldIyMn _ | .ldHlMnInd _ | .ldDdMnInd _ _ | .ldIxMnInd _ | .ldIyMnInd _
  | .ldMnIndHl _ | .ldMnIndSs _ _ | .ldMnIndIx _ | .ldMnIndIy _ | .ldSpHl | .pushTt _ | .pushIx
  | .pushIy | .popTt _ | .popIx | .popIy | .ldSpIx | .ldSpIy | .exAfAf | .exx | .exDeHl | .exSpIndHl
  | .exSpIndIx | .exSpIndIy => true
  -- 8-bit arithmetic and logic (spec 42_alu8.md)
  | .addAR _ | .addAHlInd | .addAN _ | .addAIxInd _ | .addAIyInd _ | .adcAR _ | .adcAHlInd | .adcAN _
  | .adcAIxInd _ | .adcAIyInd _ | .subAR _ | .subAHlInd | .subAN _ | .subAIxInd _ | .subAIyInd _
  | .sbcAR _ | .sbcAHlInd | .sbcAN _ | .sbcAIxInd _ | .sbcAIyInd _ | .andAR _ | .andAHlInd | .andAN _
  | .andAIxInd _ | .andAIyInd _ | .xorAR _ | .xorAHlInd | .xorAN _ | .xorAIxInd _ | .xorAIyInd _
  | .orAR _ | .orAHlInd | .orAN _ | .orAIxInd _ | .orAIyInd _ | .cpAR _ | .cpAHlInd | .cpAN _
  | .cpAIxInd _ | .cpAIyInd _ | .incR _ | .incHlInd | .incIxInd _ | .incIyInd _ | .decR _ | .decHlInd
  | .decIxInd _ | .decIyInd _ | .daa | .cpl | .neg | .ccf | .scf => true
  -- 16-bit arithmetic (spec 43_alu16.md)
  | .addHlSs _ | .addIxXx _ | .addIyYy _ | .adcHlSs _ | .sbcHlSs _ | .incSs _ | .incIx | .incIy
  | .decSs _ | .decIx | .decIy => true
  -- Rotates, shifts, digit rotates and bits (spec 44_rotate_shift_bit.md)
  | .rlca | .rla | .rrca | .rra | .rlcR _ | .rlcHlInd | .rlcIxInd _ | .rlcIyInd _ | .rlR _ | .rlHlInd
  | .rlIxInd _ | .rlIyInd _ | .rrcR _ | .rrcHlInd | .rrcIxInd _ | .rrcIyInd _ | .rrR _ | .rrHlInd
  | .rrIxInd _ | .rrIyInd _ | .slaR _ | .slaHlInd | .slaIxInd _ | .slaIyInd _ | .sraR _ | .sraHlInd
  | .sraIxInd _ | .sraIyInd _ | .srlR _ | .srlHlInd | .srlIxInd _ | .srlIyInd _ | .rld | .rrd => true
  | .bitR b _ => bitNumberOk b
  | .bitHlInd b => bitNumberOk b
  | .bitIxInd b _ => bitNumberOk b
  | .bitIyInd b _ => bitNumberOk b
  | .setR b _ => bitNumberOk b
  | .setHlInd b => bitNumberOk b
  | .setIxInd b _ => bitNumberOk b
  | .setIyInd b _ => bitNumberOk b
  | .resR b _ => bitNumberOk b
  | .resHlInd b => bitNumberOk b
  | .resIxInd b _ => bitNumberOk b
  | .resIyInd b _ => bitNumberOk b
  -- Block transfer and search (spec 45_block.md)
  | .ldi | .ldir | .ldd | .lddr | .cpi | .cpir | .cpd | .cpdr => true
  -- Control transfer (spec 46_control_transfer.md)
  | .jpMn _ | .jpCcMn _ _ | .jpHl | .jpIx | .jpIy => true
  | .jr e => distanceOk e
  | .jrCc _ e => distanceOk e
  | .djnz e => distanceOk e
  | .callMn _ | .callCcMn _ _ | .ret | .retCc _ | .reti | .retn => true
  | .rst v => restartOk v
  -- Input and output (spec 47_io.md)
  | .inAN _ | .inRC _ | .outNA _ | .outCR _ | .ini | .inir | .ind | .indr | .outi | .otir | .outd
  | .otdr => true
  -- CPU control (spec 48_cpu_control.md)
  | .nop | .halt | .di | .ei | .im0 | .im1 | .im2 => true

end Sys2Proof
end

