-- ==== Sys2Proof/Decode.lean ====
section
/-! DEFINITION. Decoding (30_encoding.md R90 to R107) and, after it, encoding. The opcode pages are tables of rows, each a
mask and a pattern over the selecting byte, as R102 to R106 print them; the first row that fits wins, so a row with no field
stands before one whose field would also cover it (R107: "the more specific row wins"). -/

namespace Sys2Proof

open Sys2Proof.Machine (word16 hiByte loByte)

/-- Why a byte sequence is not an instruction: the page and the byte that has no entry (R112), or bytes that end
before the instruction does (never the case for the four bytes the machine fetches). -/
inductive DecodeError where
  | truncated
  | undefinedMain (op : Byte)
  | undefinedCB (op : Byte)
  | undefinedED (op : Byte)
  | undefinedXY (op : Byte)
  | undefinedXYCB (op : Byte)
  deriving DecidableEq, Repr

/-- The register of an `rrr` code (R92); 110 is none. -/
def Reg8.ofCode (c : Byte) : Option Reg8 :=
  match c.toNat with
  | 0 => some .b | 1 => some .c | 2 => some .d | 3 => some .e | 4 => some .h | 5 => some .l | 7 => some .a
  | _ => none

/-- The `rrr` code of a register (R92). -/
def Reg8.code : Reg8 → Byte
  | .b => 0 | .c => 1 | .d => 2 | .e => 3 | .h => 4 | .l => 5 | .a => 7

/-- The register of a `dd` or `ss` code (R93). -/
def RegDD.ofCode (c : Byte) : RegDD :=
  match c.toNat with
  | 0 => .bc | 1 => .de | 2 => .hl | _ => .sp

/-- The `dd` or `ss` code of a register (R93). -/
def RegDD.code : RegDD → Byte
  | .bc => 0 | .de => 1 | .hl => 2 | .sp => 3

/-- The register of a `tt` code (R93). -/
def RegTT.ofCode (c : Byte) : RegTT :=
  match c.toNat with
  | 0 => .bc | 1 => .de | 2 => .hl | _ => .af

/-- The `tt` code of a register (R93). -/
def RegTT.code : RegTT → Byte
  | .bc => 0 | .de => 1 | .hl => 2 | .af => 3

/-- The register of an `xx` code (R93). -/
def RegXX.ofCode (c : Byte) : RegXX :=
  match c.toNat with
  | 0 => .bc | 1 => .de | 2 => .ix | _ => .sp

/-- The `xx` code of a register (R93). -/
def RegXX.code : RegXX → Byte
  | .bc => 0 | .de => 1 | .ix => 2 | .sp => 3

/-- The register of a `yy` code (R93). -/
def RegYY.ofCode (c : Byte) : RegYY :=
  match c.toNat with
  | 0 => .bc | 1 => .de | 2 => .iy | _ => .sp

/-- The `yy` code of a register (R93). -/
def RegYY.code : RegYY → Byte
  | .bc => 0 | .de => 1 | .iy => 2 | .sp => 3

/-- The condition of an `fff` code (R100). -/
def Cond.ofCode (c : Byte) : Cond :=
  match c.toNat with
  | 0 => .nz | 1 => .z | 2 => .nc | 3 => .c | 4 => .po | 5 => .pe | 6 => .p | _ => .m

/-- The `fff` code of a condition (R100). -/
def Cond.code : Cond → Byte
  | .nz => 0 | .z => 1 | .nc => 2 | .c => 3 | .po => 4 | .pe => 5 | .p => 6 | .m => 7

/-- The condition of a `cc` code (R101). -/
def CC.ofCode (c : Byte) : CC :=
  match c.toNat with
  | 0 => .nz | 1 => .z | 2 => .nc | _ => .c

/-- The `cc` code of a condition (R101). -/
def CC.code : CC → Byte
  | .nz => 0 | .z => 1 | .nc => 2 | .c => 3

/-- Bits 5..3 of a byte, as a number in the low bits. -/
def field53 (op : Byte) : Byte := (op >>> 3) &&& 7#8

/-- Bits 2..0 of a byte. -/
def field20 (op : Byte) : Byte := op &&& 7#8

/-- Bits 5..4 of a byte, as a number in the low bits. -/
def field54 (op : Byte) : Byte := (op >>> 4) &&& 3#8

/-- Bits 4..3 of a byte, as a number in the low bits. -/
def field43 (op : Byte) : Byte := (op >>> 3) &&& 3#8

/-- The byte after a relative jump's opcode holds `e - 2`, signed (R99). -/
def distanceOfByte (b : Byte) : Int := b.toInt + 2

/-- The byte that encodes the distance `e` (R99). -/
def byteOfDistance (e : Int) : Byte := BitVec.ofInt 8 (e - 2)

/-- What follows the selecting byte of an instruction (R91), and the instruction those bytes complete. -/
inductive Tail where
  | none (i : Instr)
  | one (k : Byte → Instr)
  | word (k : Word → Instr)
  | two (k : Byte → Byte → Instr)

/-- One row of an opcode page: the selecting byte fits when its bits under `mask` are `pat` and its fields name
operands (`make`; a register field of 110 names none, R92). -/
structure OpRow (α : Type) where
  mask : Byte
  pat : Byte
  make : Byte → Option α

/-- The first row of a page that the byte fits. -/
def selectRow {α : Type} : List (OpRow α) → Byte → Option α
  | [], _ => Option.none
  | r :: rs, op =>
    if op &&& r.mask = r.pat then
      match r.make op with
      | some x => some x
      | Option.none => selectRow rs op
    else selectRow rs op

/-- The rows without a field in the selecting byte of the main page (R102). -/
def mainRowsExact1 : List (OpRow Tail) :=
  [ ⟨0b11111111#8, 0b00000000#8, fun _ => some (.none .nop)⟩,
    ⟨0b11111111#8, 0b00000010#8, fun _ => some (.none .ldBcIndA)⟩,
    ⟨0b11111111#8, 0b00010010#8, fun _ => some (.none .ldDeIndA)⟩,
    ⟨0b11111111#8, 0b00100010#8, fun _ => some (.word fun mn => .ldMnIndHl mn)⟩,
    ⟨0b11111111#8, 0b00110010#8, fun _ => some (.word fun mn => .ldMnIndA mn)⟩,
    ⟨0b11111111#8, 0b00110100#8, fun _ => some (.none .incHlInd)⟩,
    ⟨0b11111111#8, 0b00110101#8, fun _ => some (.none .decHlInd)⟩,
    ⟨0b11111111#8, 0b00110110#8, fun _ => some (.one fun n => .ldHlIndN n)⟩,
    ⟨0b11111111#8, 0b00000111#8, fun _ => some (.none .rlca)⟩,
    ⟨0b11111111#8, 0b00001111#8, fun _ => some (.none .rrca)⟩,
    ⟨0b11111111#8, 0b00010111#8, fun _ => some (.none .rla)⟩,
    ⟨0b11111111#8, 0b00011111#8, fun _ => some (.none .rra)⟩,
    ⟨0b11111111#8, 0b00100111#8, fun _ => some (.none .daa)⟩,
    ⟨0b11111111#8, 0b00101111#8, fun _ => some (.none .cpl)⟩,
    ⟨0b11111111#8, 0b00110111#8, fun _ => some (.none .scf)⟩,
    ⟨0b11111111#8, 0b00111111#8, fun _ => some (.none .ccf)⟩,
    ⟨0b11111111#8, 0b00001000#8, fun _ => some (.none .exAfAf)⟩,
    ⟨0b11111111#8, 0b00010000#8, fun _ => some (.one fun e => .djnz (distanceOfByte e))⟩,
    ⟨0b11111111#8, 0b00011000#8, fun _ => some (.one fun e => .jr (distanceOfByte e))⟩,
    ⟨0b11111111#8, 0b00001010#8, fun _ => some (.none .ldABcInd)⟩,
    ⟨0b11111111#8, 0b00011010#8, fun _ => some (.none .ldADeInd)⟩,
    ⟨0b11111111#8, 0b00101010#8, fun _ => some (.word fun mn => .ldHlMnInd mn)⟩,
    ⟨0b11111111#8, 0b00111010#8, fun _ => some (.word fun mn => .ldAMnInd mn)⟩,
    ⟨0b11111111#8, 0b01110110#8, fun _ => some (.none .halt)⟩,
    ⟨0b11111111#8, 0b10000110#8, fun _ => some (.none .addAHlInd)⟩,
    ⟨0b11111111#8, 0b11000110#8, fun _ => some (.one fun n => .addAN n)⟩,
    ⟨0b11111111#8, 0b10001110#8, fun _ => some (.none .adcAHlInd)⟩,
    ⟨0b11111111#8, 0b11001110#8, fun _ => some (.one fun n => .adcAN n)⟩,
    ⟨0b11111111#8, 0b10010110#8, fun _ => some (.none .subAHlInd)⟩,
    ⟨0b11111111#8, 0b11010110#8, fun _ => some (.one fun n => .subAN n)⟩]

/-- The rows without a field in the selecting byte of the main page (R102). -/
def mainRowsExact2 : List (OpRow Tail) :=
  [ ⟨0b11111111#8, 0b10011110#8, fun _ => some (.none .sbcAHlInd)⟩,
    ⟨0b11111111#8, 0b11011110#8, fun _ => some (.one fun n => .sbcAN n)⟩,
    ⟨0b11111111#8, 0b10100110#8, fun _ => some (.none .andAHlInd)⟩,
    ⟨0b11111111#8, 0b11100110#8, fun _ => some (.one fun n => .andAN n)⟩,
    ⟨0b11111111#8, 0b10101110#8, fun _ => some (.none .xorAHlInd)⟩,
    ⟨0b11111111#8, 0b11101110#8, fun _ => some (.one fun n => .xorAN n)⟩,
    ⟨0b11111111#8, 0b10110110#8, fun _ => some (.none .orAHlInd)⟩,
    ⟨0b11111111#8, 0b11110110#8, fun _ => some (.one fun n => .orAN n)⟩,
    ⟨0b11111111#8, 0b10111110#8, fun _ => some (.none .cpAHlInd)⟩,
    ⟨0b11111111#8, 0b11111110#8, fun _ => some (.one fun n => .cpAN n)⟩,
    ⟨0b11111111#8, 0b11000011#8, fun _ => some (.word fun mn => .jpMn mn)⟩,
    ⟨0b11111111#8, 0b11001001#8, fun _ => some (.none .ret)⟩,
    ⟨0b11111111#8, 0b11011001#8, fun _ => some (.none .exx)⟩,
    ⟨0b11111111#8, 0b11101001#8, fun _ => some (.none .jpHl)⟩,
    ⟨0b11111111#8, 0b11111001#8, fun _ => some (.none .ldSpHl)⟩,
    ⟨0b11111111#8, 0b11010011#8, fun _ => some (.one fun n => .outNA n)⟩,
    ⟨0b11111111#8, 0b11011011#8, fun _ => some (.one fun n => .inAN n)⟩,
    ⟨0b11111111#8, 0b11100011#8, fun _ => some (.none .exSpIndHl)⟩,
    ⟨0b11111111#8, 0b11101011#8, fun _ => some (.none .exDeHl)⟩,
    ⟨0b11111111#8, 0b11110011#8, fun _ => some (.none .di)⟩,
    ⟨0b11111111#8, 0b11111011#8, fun _ => some (.none .ei)⟩,
    ⟨0b11111111#8, 0b11001101#8, fun _ => some (.word fun mn => .callMn mn)⟩]

/-- The rows with a field in the selecting byte of the main page (R102). -/
def mainRowsFields : List (OpRow Tail) :=
  [ ⟨0b11001111#8, 0b00000001#8, fun op => some (.word fun mn => .ldDdMn (RegDD.ofCode (field54 op)) mn)⟩,
    ⟨0b11001111#8, 0b00000011#8, fun op => some (.none (.incSs (RegDD.ofCode (field54 op))))⟩,
    ⟨0b11100111#8, 0b00100000#8, fun op => some (.one fun e => .jrCc (CC.ofCode (field43 op)) (distanceOfByte e))⟩,
    ⟨0b11001111#8, 0b00001001#8, fun op => some (.none (.addHlSs (RegDD.ofCode (field54 op))))⟩,
    ⟨0b11001111#8, 0b00001011#8, fun op => some (.none (.decSs (RegDD.ofCode (field54 op))))⟩,
    ⟨0b11001111#8, 0b11000001#8, fun op => some (.none (.popTt (RegTT.ofCode (field54 op))))⟩,
    ⟨0b11001111#8, 0b11000101#8, fun op => some (.none (.pushTt (RegTT.ofCode (field54 op))))⟩,
    ⟨0b11000111#8, 0b00000100#8, fun op => (Reg8.ofCode (field53 op)).bind fun r => some (.none (.incR r))⟩,
    ⟨0b11000111#8, 0b00000101#8, fun op => (Reg8.ofCode (field53 op)).bind fun r => some (.none (.decR r))⟩,
    ⟨0b11000111#8, 0b00000110#8, fun op => (Reg8.ofCode (field53 op)).bind fun r => some (.one fun n => .ldRN r n)⟩,
    ⟨0b11000111#8, 0b01000110#8, fun op => (Reg8.ofCode (field53 op)).bind fun r => some (.none (.ldRHlInd r))⟩,
    ⟨0b11111000#8, 0b01110000#8, fun op => (Reg8.ofCode (field20 op)).bind fun r => some (.none (.ldHlIndR r))⟩,
    ⟨0b11111000#8, 0b10000000#8, fun op => (Reg8.ofCode (field20 op)).bind fun r => some (.none (.addAR r))⟩,
    ⟨0b11111000#8, 0b10001000#8, fun op => (Reg8.ofCode (field20 op)).bind fun r => some (.none (.adcAR r))⟩,
    ⟨0b11111000#8, 0b10010000#8, fun op => (Reg8.ofCode (field20 op)).bind fun r => some (.none (.subAR r))⟩,
    ⟨0b11111000#8, 0b10011000#8, fun op => (Reg8.ofCode (field20 op)).bind fun r => some (.none (.sbcAR r))⟩,
    ⟨0b11111000#8, 0b10100000#8, fun op => (Reg8.ofCode (field20 op)).bind fun r => some (.none (.andAR r))⟩,
    ⟨0b11111000#8, 0b10101000#8, fun op => (Reg8.ofCode (field20 op)).bind fun r => some (.none (.xorAR r))⟩,
    ⟨0b11111000#8, 0b10110000#8, fun op => (Reg8.ofCode (field20 op)).bind fun r => some (.none (.orAR r))⟩,
    ⟨0b11111000#8, 0b10111000#8, fun op => (Reg8.ofCode (field20 op)).bind fun r => some (.none (.cpAR r))⟩,
    ⟨0b11000111#8, 0b11000000#8, fun op => some (.none (.retCc (Cond.ofCode (field53 op))))⟩,
    ⟨0b11000111#8, 0b11000010#8, fun op => some (.word fun mn => .jpCcMn (Cond.ofCode (field53 op)) mn)⟩,
    ⟨0b11000111#8, 0b11000100#8, fun op => some (.word fun mn => .callCcMn (Cond.ofCode (field53 op)) mn)⟩,
    ⟨0b11000111#8, 0b11000111#8, fun op => some (.none (.rst (op &&& 0b00111000#8)))⟩,
    ⟨0b11000000#8, 0b01000000#8, fun op => (Reg8.ofCode (field53 op)).bind fun rd => (Reg8.ofCode (field20 op)).bind fun rs => some (.none (.ldRR rd rs))⟩]

/-- The main page (R102). -/
def mainRows : List (OpRow Tail) := mainRowsExact1 ++ mainRowsExact2 ++ mainRowsFields

/-- The rows without a field in the selecting byte of the page CB (R103). -/
def cbRowsExact : List (OpRow Tail) :=
  [ ⟨0b11111111#8, 0b00000110#8, fun _ => some (.none .rlcHlInd)⟩,
    ⟨0b11111111#8, 0b00001110#8, fun _ => some (.none .rrcHlInd)⟩,
    ⟨0b11111111#8, 0b00010110#8, fun _ => some (.none .rlHlInd)⟩,
    ⟨0b11111111#8, 0b00011110#8, fun _ => some (.none .rrHlInd)⟩,
    ⟨0b11111111#8, 0b00100110#8, fun _ => some (.none .slaHlInd)⟩,
    ⟨0b11111111#8, 0b00101110#8, fun _ => some (.none .sraHlInd)⟩,
    ⟨0b11111111#8, 0b00111110#8, fun _ => some (.none .srlHlInd)⟩]

/-- The rows with a field in the selecting byte of the page CB (R103). -/
def cbRowsFields : List (OpRow Tail) :=
  [ ⟨0b11111000#8, 0b00000000#8, fun op => (Reg8.ofCode (field20 op)).bind fun r => some (.none (.rlcR r))⟩,
    ⟨0b11111000#8, 0b00001000#8, fun op => (Reg8.ofCode (field20 op)).bind fun r => some (.none (.rrcR r))⟩,
    ⟨0b11111000#8, 0b00010000#8, fun op => (Reg8.ofCode (field20 op)).bind fun r => some (.none (.rlR r))⟩,
    ⟨0b11111000#8, 0b00011000#8, fun op => (Reg8.ofCode (field20 op)).bind fun r => some (.none (.rrR r))⟩,
    ⟨0b11111000#8, 0b00100000#8, fun op => (Reg8.ofCode (field20 op)).bind fun r => some (.none (.slaR r))⟩,
    ⟨0b11111000#8, 0b00101000#8, fun op => (Reg8.ofCode (field20 op)).bind fun r => some (.none (.sraR r))⟩,
    ⟨0b11111000#8, 0b00111000#8, fun op => (Reg8.ofCode (field20 op)).bind fun r => some (.none (.srlR r))⟩,
    ⟨0b11000111#8, 0b01000110#8, fun op => some (.none (.bitHlInd (field53 op).toNat))⟩,
    ⟨0b11000111#8, 0b10000110#8, fun op => some (.none (.resHlInd (field53 op).toNat))⟩,
    ⟨0b11000111#8, 0b11000110#8, fun op => some (.none (.setHlInd (field53 op).toNat))⟩,
    ⟨0b11000000#8, 0b01000000#8, fun op => (Reg8.ofCode (field20 op)).bind fun r => some (.none (.bitR (field53 op).toNat r))⟩,
    ⟨0b11000000#8, 0b10000000#8, fun op => (Reg8.ofCode (field20 op)).bind fun r => some (.none (.resR (field53 op).toNat r))⟩,
    ⟨0b11000000#8, 0b11000000#8, fun op => (Reg8.ofCode (field20 op)).bind fun r => some (.none (.setR (field53 op).toNat r))⟩]

/-- The page CB (R103). -/
def cbRows : List (OpRow Tail) := cbRowsExact ++ cbRowsFields

/-- The rows without a field in the selecting byte of the page ED (R104). -/
def edRowsExact : List (OpRow Tail) :=
  [ ⟨0b11111111#8, 0b01000100#8, fun _ => some (.none .neg)⟩,
    ⟨0b11111111#8, 0b01000101#8, fun _ => some (.none .retn)⟩,
    ⟨0b11111111#8, 0b01001101#8, fun _ => some (.none .reti)⟩,
    ⟨0b11111111#8, 0b01000110#8, fun _ => some (.none .im0)⟩,
    ⟨0b11111111#8, 0b01010110#8, fun _ => some (.none .im1)⟩,
    ⟨0b11111111#8, 0b01011110#8, fun _ => some (.none .im2)⟩,
    ⟨0b11111111#8, 0b01000111#8, fun _ => some (.none .ldIRegA)⟩,
    ⟨0b11111111#8, 0b01001111#8, fun _ => some (.none .ldRRegA)⟩,
    ⟨0b11111111#8, 0b01010111#8, fun _ => some (.none .ldAIReg)⟩,
    ⟨0b11111111#8, 0b01011111#8, fun _ => some (.none .ldARReg)⟩,
    ⟨0b11111111#8, 0b01100111#8, fun _ => some (.none .rrd)⟩,
    ⟨0b11111111#8, 0b01101111#8, fun _ => some (.none .rld)⟩,
    ⟨0b11111111#8, 0b10100000#8, fun _ => some (.none .ldi)⟩,
    ⟨0b11111111#8, 0b10100001#8, fun _ => some (.none .cpi)⟩,
    ⟨0b11111111#8, 0b10100010#8, fun _ => some (.none .ini)⟩,
    ⟨0b11111111#8, 0b10100011#8, fun _ => some (.none .outi)⟩,
    ⟨0b11111111#8, 0b10101000#8, fun _ => some (.none .ldd)⟩,
    ⟨0b11111111#8, 0b10101001#8, fun _ => some (.none .cpd)⟩,
    ⟨0b11111111#8, 0b10101010#8, fun _ => some (.none .ind)⟩,
    ⟨0b11111111#8, 0b10101011#8, fun _ => some (.none .outd)⟩,
    ⟨0b11111111#8, 0b10110000#8, fun _ => some (.none .ldir)⟩,
    ⟨0b11111111#8, 0b10110001#8, fun _ => some (.none .cpir)⟩,
    ⟨0b11111111#8, 0b10110010#8, fun _ => some (.none .inir)⟩,
    ⟨0b11111111#8, 0b10110011#8, fun _ => some (.none .otir)⟩,
    ⟨0b11111111#8, 0b10111000#8, fun _ => some (.none .lddr)⟩,
    ⟨0b11111111#8, 0b10111001#8, fun _ => some (.none .cpdr)⟩,
    ⟨0b11111111#8, 0b10111010#8, fun _ => some (.none .indr)⟩,
    ⟨0b11111111#8, 0b10111011#8, fun _ => some (.none .otdr)⟩]

/-- The rows with a field in the selecting byte of the page ED (R104). -/
def edRowsFields : List (OpRow Tail) :=
  [ ⟨0b11001111#8, 0b01000010#8, fun op => some (.none (.sbcHlSs (RegDD.ofCode (field54 op))))⟩,
    ⟨0b11001111#8, 0b01001010#8, fun op => some (.none (.adcHlSs (RegDD.ofCode (field54 op))))⟩,
    ⟨0b11001111#8, 0b01000011#8, fun op => some (.word fun mn => .ldMnIndSs mn (RegDD.ofCode (field54 op)))⟩,
    ⟨0b11001111#8, 0b01001011#8, fun op => some (.word fun mn => .ldDdMnInd (RegDD.ofCode (field54 op)) mn)⟩,
    ⟨0b11000111#8, 0b01000000#8, fun op => (Reg8.ofCode (field53 op)).bind fun r => some (.none (.inRC r))⟩,
    ⟨0b11000111#8, 0b01000001#8, fun op => (Reg8.ofCode (field53 op)).bind fun r => some (.none (.outCR r))⟩]

/-- The page ED (R104). -/
def edRows : List (OpRow Tail) := edRowsExact ++ edRowsFields

/-- The rows without a field in the selecting byte of the XY page after 0xDD, IX (R105). -/
def ixRowsExact : List (OpRow Tail) :=
  [ ⟨0b11111111#8, 0b00100001#8, fun _ => some (.word fun mn => .ldIxMn mn)⟩,
    ⟨0b11111111#8, 0b00100010#8, fun _ => some (.word fun mn => .ldMnIndIx mn)⟩,
    ⟨0b11111111#8, 0b00100011#8, fun _ => some (.none .incIx)⟩,
    ⟨0b11111111#8, 0b00101010#8, fun _ => some (.word fun mn => .ldIxMnInd mn)⟩,
    ⟨0b11111111#8, 0b00101011#8, fun _ => some (.none .decIx)⟩,
    ⟨0b11111111#8, 0b00110100#8, fun _ => some (.one fun d => .incIxInd d)⟩,
    ⟨0b11111111#8, 0b00110101#8, fun _ => some (.one fun d => .decIxInd d)⟩,
    ⟨0b11111111#8, 0b00110110#8, fun _ => some (.two fun d n => .ldIxIndN d n)⟩,
    ⟨0b11111111#8, 0b10000110#8, fun _ => some (.one fun d => .addAIxInd d)⟩,
    ⟨0b11111111#8, 0b10001110#8, fun _ => some (.one fun d => .adcAIxInd d)⟩,
    ⟨0b11111111#8, 0b10010110#8, fun _ => some (.one fun d => .subAIxInd d)⟩,
    ⟨0b11111111#8, 0b10011110#8, fun _ => some (.one fun d => .sbcAIxInd d)⟩,
    ⟨0b11111111#8, 0b10100110#8, fun _ => some (.one fun d => .andAIxInd d)⟩,
    ⟨0b11111111#8, 0b10101110#8, fun _ => some (.one fun d => .xorAIxInd d)⟩,
    ⟨0b11111111#8, 0b10110110#8, fun _ => some (.one fun d => .orAIxInd d)⟩,
    ⟨0b11111111#8, 0b10111110#8, fun _ => some (.one fun d => .cpAIxInd d)⟩,
    ⟨0b11111111#8, 0b11100001#8, fun _ => some (.none .popIx)⟩,
    ⟨0b11111111#8, 0b11100011#8, fun _ => some (.none .exSpIndIx)⟩,
    ⟨0b11111111#8, 0b11100101#8, fun _ => some (.none .pushIx)⟩,
    ⟨0b11111111#8, 0b11101001#8, fun _ => some (.none .jpIx)⟩,
    ⟨0b11111111#8, 0b11111001#8, fun _ => some (.none .ldSpIx)⟩]

/-- The rows with a field in the selecting byte of the XY page after 0xDD, IX (R105). -/
def ixRowsFields : List (OpRow Tail) :=
  [ ⟨0b11001111#8, 0b00001001#8, fun op => some (.none (.addIxXx (RegXX.ofCode (field54 op))))⟩,
    ⟨0b11000111#8, 0b01000110#8, fun op => (Reg8.ofCode (field53 op)).bind fun r => some (.one fun d => .ldRIxInd r d)⟩,
    ⟨0b11111000#8, 0b01110000#8, fun op => (Reg8.ofCode (field20 op)).bind fun r => some (.one fun d => .ldIxIndR d r)⟩]

/-- The XY page after 0xDD, IX (R105). -/
def ixRows : List (OpRow Tail) := ixRowsExact ++ ixRowsFields

/-- The rows without a field in the selecting byte of the XY page after 0xFD, IY (R105). -/
def iyRowsExact : List (OpRow Tail) :=
  [ ⟨0b11111111#8, 0b00100001#8, fun _ => some (.word fun mn => .ldIyMn mn)⟩,
    ⟨0b11111111#8, 0b00100010#8, fun _ => some (.word fun mn => .ldMnIndIy mn)⟩,
    ⟨0b11111111#8, 0b00100011#8, fun _ => some (.none .incIy)⟩,
    ⟨0b11111111#8, 0b00101010#8, fun _ => some (.word fun mn => .ldIyMnInd mn)⟩,
    ⟨0b11111111#8, 0b00101011#8, fun _ => some (.none .decIy)⟩,
    ⟨0b11111111#8, 0b00110100#8, fun _ => some (.one fun d => .incIyInd d)⟩,
    ⟨0b11111111#8, 0b00110101#8, fun _ => some (.one fun d => .decIyInd d)⟩,
    ⟨0b11111111#8, 0b00110110#8, fun _ => some (.two fun d n => .ldIyIndN d n)⟩,
    ⟨0b11111111#8, 0b10000110#8, fun _ => some (.one fun d => .addAIyInd d)⟩,
    ⟨0b11111111#8, 0b10001110#8, fun _ => some (.one fun d => .adcAIyInd d)⟩,
    ⟨0b11111111#8, 0b10010110#8, fun _ => some (.one fun d => .subAIyInd d)⟩,
    ⟨0b11111111#8, 0b10011110#8, fun _ => some (.one fun d => .sbcAIyInd d)⟩,
    ⟨0b11111111#8, 0b10100110#8, fun _ => some (.one fun d => .andAIyInd d)⟩,
    ⟨0b11111111#8, 0b10101110#8, fun _ => some (.one fun d => .xorAIyInd d)⟩,
    ⟨0b11111111#8, 0b10110110#8, fun _ => some (.one fun d => .orAIyInd d)⟩,
    ⟨0b11111111#8, 0b10111110#8, fun _ => some (.one fun d => .cpAIyInd d)⟩,
    ⟨0b11111111#8, 0b11100001#8, fun _ => some (.none .popIy)⟩,
    ⟨0b11111111#8, 0b11100011#8, fun _ => some (.none .exSpIndIy)⟩,
    ⟨0b11111111#8, 0b11100101#8, fun _ => some (.none .pushIy)⟩,
    ⟨0b11111111#8, 0b11101001#8, fun _ => some (.none .jpIy)⟩,
    ⟨0b11111111#8, 0b11111001#8, fun _ => some (.none .ldSpIy)⟩]

/-- The rows with a field in the selecting byte of the XY page after 0xFD, IY (R105). -/
def iyRowsFields : List (OpRow Tail) :=
  [ ⟨0b11001111#8, 0b00001001#8, fun op => some (.none (.addIyYy (RegYY.ofCode (field54 op))))⟩,
    ⟨0b11000111#8, 0b01000110#8, fun op => (Reg8.ofCode (field53 op)).bind fun r => some (.one fun d => .ldRIyInd r d)⟩,
    ⟨0b11111000#8, 0b01110000#8, fun op => (Reg8.ofCode (field20 op)).bind fun r => some (.one fun d => .ldIyIndR d r)⟩]

/-- The XY page after 0xFD, IY (R105). -/
def iyRows : List (OpRow Tail) := iyRowsExact ++ iyRowsFields

/-- The rows without a field in the selecting byte of the XYCB page after 0xDD 0xCB d, IX (R106). -/
def ixCbRowsExact : List (OpRow (Byte → Instr)) :=
  [ ⟨0b11111111#8, 0b00000110#8, fun _ => some (fun d => .rlcIxInd d)⟩,
    ⟨0b11111111#8, 0b00001110#8, fun _ => some (fun d => .rrcIxInd d)⟩,
    ⟨0b11111111#8, 0b00010110#8, fun _ => some (fun d => .rlIxInd d)⟩,
    ⟨0b11111111#8, 0b00011110#8, fun _ => some (fun d => .rrIxInd d)⟩,
    ⟨0b11111111#8, 0b00100110#8, fun _ => some (fun d => .slaIxInd d)⟩,
    ⟨0b11111111#8, 0b00101110#8, fun _ => some (fun d => .sraIxInd d)⟩,
    ⟨0b11111111#8, 0b00111110#8, fun _ => some (fun d => .srlIxInd d)⟩]

/-- The rows with a field in the selecting byte of the XYCB page after 0xDD 0xCB d, IX (R106). -/
def ixCbRowsFields : List (OpRow (Byte → Instr)) :=
  [ ⟨0b11000111#8, 0b01000110#8, fun op => some (fun d => .bitIxInd (field53 op).toNat d)⟩,
    ⟨0b11000111#8, 0b10000110#8, fun op => some (fun d => .resIxInd (field53 op).toNat d)⟩,
    ⟨0b11000111#8, 0b11000110#8, fun op => some (fun d => .setIxInd (field53 op).toNat d)⟩]

/-- The XYCB page after 0xDD 0xCB d, IX (R106). -/
def ixCbRows : List (OpRow (Byte → Instr)) := ixCbRowsExact ++ ixCbRowsFields

/-- The rows without a field in the selecting byte of the XYCB page after 0xFD 0xCB d, IY (R106). -/
def iyCbRowsExact : List (OpRow (Byte → Instr)) :=
  [ ⟨0b11111111#8, 0b00000110#8, fun _ => some (fun d => .rlcIyInd d)⟩,
    ⟨0b11111111#8, 0b00001110#8, fun _ => some (fun d => .rrcIyInd d)⟩,
    ⟨0b11111111#8, 0b00010110#8, fun _ => some (fun d => .rlIyInd d)⟩,
    ⟨0b11111111#8, 0b00011110#8, fun _ => some (fun d => .rrIyInd d)⟩,
    ⟨0b11111111#8, 0b00100110#8, fun _ => some (fun d => .slaIyInd d)⟩,
    ⟨0b11111111#8, 0b00101110#8, fun _ => some (fun d => .sraIyInd d)⟩,
    ⟨0b11111111#8, 0b00111110#8, fun _ => some (fun d => .srlIyInd d)⟩]

/-- The rows with a field in the selecting byte of the XYCB page after 0xFD 0xCB d, IY (R106). -/
def iyCbRowsFields : List (OpRow (Byte → Instr)) :=
  [ ⟨0b11000111#8, 0b01000110#8, fun op => some (fun d => .bitIyInd (field53 op).toNat d)⟩,
    ⟨0b11000111#8, 0b10000110#8, fun op => some (fun d => .resIyInd (field53 op).toNat d)⟩,
    ⟨0b11000111#8, 0b11000110#8, fun op => some (fun d => .setIyInd (field53 op).toNat d)⟩]

/-- The XYCB page after 0xFD 0xCB d, IY (R106). -/
def iyCbRows : List (OpRow (Byte → Instr)) := iyCbRowsExact ++ iyCbRowsFields

/-- Read the operand bytes of an instruction: the low byte of a word first (R61, R97). -/
def Tail.read : Tail → List Byte → Except DecodeError (Instr × List Byte)
  | .none i, bs => .ok (i, bs)
  | .one k, n :: bs => .ok (k n, bs)
  | .word k, n :: m :: bs => .ok (k (word16 m n), bs)
  | .two k, d :: n :: bs => .ok (k d n, bs)
  | _, _ => .error .truncated

/-- Look the next byte up in a page and read what follows it. -/
def decodePage (rows : List (OpRow Tail)) (err : Byte → DecodeError) :
    List Byte → Except DecodeError (Instr × List Byte)
  | [] => .error .truncated
  | op :: bs =>
    match selectRow rows op with
    | some t => t.read bs
    | Option.none => .error (err op)

/-- The displacement comes before the operation byte (R91). -/
def decodeXYCB (rows : List (OpRow (Byte → Instr))) : List Byte → Except DecodeError (Instr × List Byte)
  | d :: op :: bs =>
    match selectRow rows op with
    | some k => .ok (k d, bs)
    | Option.none => .error (.undefinedXYCB op)
  | _ => .error .truncated

/-- The second byte after 0xDD or 0xFD: 0xCB leads to the XYCB page, any other to the XY page (R90). -/
def decodeXY (rows : List (OpRow Tail)) (cbRows : List (OpRow (Byte → Instr))) :
    List Byte → Except DecodeError (Instr × List Byte)
  | [] => .error .truncated
  | b1 :: bs =>
    if b1 = 0xCB#8 then decodeXYCB cbRows bs
    else decodePage rows .undefinedXY (b1 :: bs)

/-- The decoding algorithm of R107, total on any bytes: the instruction and the bytes after it. -/
def decode : List Byte → Except DecodeError (Instr × List Byte)
  | [] => .error .truncated
  | b0 :: bs =>
    if b0 = 0xCB#8 then decodePage cbRows .undefinedCB bs
    else if b0 = 0xED#8 then decodePage edRows .undefinedED bs
    else if b0 = 0xDD#8 then decodeXY ixRows ixCbRows bs
    else if b0 = 0xFD#8 then decodeXY iyRows iyCbRows bs
    else decodePage mainRows .undefinedMain (b0 :: bs)

/-- The length of an instruction in bytes (R90, R91). -/
def Instr.length : Instr → Nat
  -- 8-bit loads (spec 40_load8.md)
  | .ldRR _ _ | .ldRHlInd _ | .ldHlIndR _ | .ldABcInd | .ldADeInd | .ldBcIndA | .ldDeIndA => 1
  | .ldRN _ _ | .ldHlIndN _ | .ldAIReg | .ldARReg | .ldIRegA | .ldRRegA => 2
  | .ldRIxInd _ _ | .ldRIyInd _ _ | .ldIxIndR _ _ | .ldIyIndR _ _ | .ldAMnInd _ | .ldMnIndA _ => 3
  | .ldIxIndN _ _ | .ldIyIndN _ _ => 4
  -- 16-bit loads, stack and exchange (spec 41_load16_stack_exchange.md)
  | .ldSpHl | .pushTt _ | .popTt _ | .exAfAf | .exx | .exDeHl | .exSpIndHl => 1
  | .pushIx | .pushIy | .popIx | .popIy | .ldSpIx | .ldSpIy | .exSpIndIx | .exSpIndIy => 2
  | .ldDdMn _ _ | .ldHlMnInd _ | .ldMnIndHl _ => 3
  | .ldIxMn _ | .ldIyMn _ | .ldDdMnInd _ _ | .ldIxMnInd _ | .ldIyMnInd _ | .ldMnIndSs _ _
  | .ldMnIndIx _ | .ldMnIndIy _ => 4
  -- 8-bit arithmetic and logic (spec 42_alu8.md)
  | .addAR _ | .addAHlInd | .adcAR _ | .adcAHlInd | .subAR _ | .subAHlInd | .sbcAR _ | .sbcAHlInd
  | .andAR _ | .andAHlInd | .xorAR _ | .xorAHlInd | .orAR _ | .orAHlInd | .cpAR _ | .cpAHlInd | .incR _
  | .incHlInd | .decR _ | .decHlInd | .daa | .cpl | .ccf | .scf => 1
  | .addAN _ | .adcAN _ | .subAN _ | .sbcAN _ | .andAN _ | .xorAN _ | .orAN _ | .cpAN _ | .neg => 2
  | .addAIxInd _ | .addAIyInd _ | .adcAIxInd _ | .adcAIyInd _ | .subAIxInd _ | .subAIyInd _
  | .sbcAIxInd _ | .sbcAIyInd _ | .andAIxInd _ | .andAIyInd _ | .xorAIxInd _ | .xorAIyInd _
  | .orAIxInd _ | .orAIyInd _ | .cpAIxInd _ | .cpAIyInd _ | .incIxInd _ | .incIyInd _ | .decIxInd _
  | .decIyInd _ => 3
  -- 16-bit arithmetic (spec 43_alu16.md)
  | .addHlSs _ | .incSs _ | .decSs _ => 1
  | .addIxXx _ | .addIyYy _ | .adcHlSs _ | .sbcHlSs _ | .incIx | .incIy | .decIx | .decIy => 2
  -- Rotates, shifts, digit rotates and bits (spec 44_rotate_shift_bit.md)
  | .rlca | .rla | .rrca | .rra => 1
  | .rlcR _ | .rlcHlInd | .rlR _ | .rlHlInd | .rrcR _ | .rrcHlInd | .rrR _ | .rrHlInd | .slaR _
  | .slaHlInd | .sraR _ | .sraHlInd | .srlR _ | .srlHlInd | .rld | .rrd | .bitR _ _ | .bitHlInd _
  | .setR _ _ | .setHlInd _ | .resR _ _ | .resHlInd _ => 2
  | .rlcIxInd _ | .rlcIyInd _ | .rlIxInd _ | .rlIyInd _ | .rrcIxInd _ | .rrcIyInd _ | .rrIxInd _
  | .rrIyInd _ | .slaIxInd _ | .slaIyInd _ | .sraIxInd _ | .sraIyInd _ | .srlIxInd _ | .srlIyInd _
  | .bitIxInd _ _ | .bitIyInd _ _ | .setIxInd _ _ | .setIyInd _ _ | .resIxInd _ _ | .resIyInd _ _ => 4
  -- Block transfer and search (spec 45_block.md)
  | .ldi | .ldir | .ldd | .lddr | .cpi | .cpir | .cpd | .cpdr => 2
  -- Control transfer (spec 46_control_transfer.md)
  | .jpHl | .ret | .retCc _ | .rst _ => 1
  | .jpIx | .jpIy | .jr _ | .jrCc _ _ | .djnz _ | .reti | .retn => 2
  | .jpMn _ | .jpCcMn _ _ | .callMn _ | .callCcMn _ _ => 3
  -- Input and output (spec 47_io.md)
  | .inAN _ | .inRC _ | .outNA _ | .outCR _ | .ini | .inir | .ind | .indr | .outi | .otir | .outd
  | .otdr => 2
  -- CPU control (spec 48_cpu_control.md)
  | .nop | .halt | .di | .ei => 1
  | .im0 | .im1 | .im2 => 2

/-- The bytes of an instruction, lowest address first (R61, R91, R102 to R106). -/
def encode : Instr → List Byte
  -- 8-bit loads (spec 40_load8.md)
  | .ldRR rd rs => [0b01000000#8 ||| (rd.code <<< 3) ||| rs.code]
  | .ldRN r n => [0b00000110#8 ||| (r.code <<< 3), n]
  | .ldRHlInd r => [0b01000110#8 ||| (r.code <<< 3)]
  | .ldRIxInd r d => [0xDD#8, 0b01000110#8 ||| (r.code <<< 3), d]
  | .ldRIyInd r d => [0xFD#8, 0b01000110#8 ||| (r.code <<< 3), d]
  | .ldHlIndR r => [0b01110000#8 ||| r.code]
  | .ldIxIndR d r => [0xDD#8, 0b01110000#8 ||| r.code, d]
  | .ldIyIndR d r => [0xFD#8, 0b01110000#8 ||| r.code, d]
  | .ldHlIndN n => [0b00110110#8, n]
  | .ldIxIndN d n => [0xDD#8, 0b00110110#8, d, n]
  | .ldIyIndN d n => [0xFD#8, 0b00110110#8, d, n]
  | .ldABcInd => [0b00001010#8]
  | .ldADeInd => [0b00011010#8]
  | .ldAMnInd mn => [0b00111010#8, loByte mn, hiByte mn]
  | .ldBcIndA => [0b00000010#8]
  | .ldDeIndA => [0b00010010#8]
  | .ldMnIndA mn => [0b00110010#8, loByte mn, hiByte mn]
  | .ldAIReg => [0xED#8, 0b01010111#8]
  | .ldARReg => [0xED#8, 0b01011111#8]
  | .ldIRegA => [0xED#8, 0b01000111#8]
  | .ldRRegA => [0xED#8, 0b01001111#8]
  -- 16-bit loads, stack and exchange (spec 41_load16_stack_exchange.md)
  | .ldDdMn dd mn => [0b00000001#8 ||| (dd.code <<< 4), loByte mn, hiByte mn]
  | .ldIxMn mn => [0xDD#8, 0b00100001#8, loByte mn, hiByte mn]
  | .ldIyMn mn => [0xFD#8, 0b00100001#8, loByte mn, hiByte mn]
  | .ldHlMnInd mn => [0b00101010#8, loByte mn, hiByte mn]
  | .ldDdMnInd dd mn => [0xED#8, 0b01001011#8 ||| (dd.code <<< 4), loByte mn, hiByte mn]
  | .ldIxMnInd mn => [0xDD#8, 0b00101010#8, loByte mn, hiByte mn]
  | .ldIyMnInd mn => [0xFD#8, 0b00101010#8, loByte mn, hiByte mn]
  | .ldMnIndHl mn => [0b00100010#8, loByte mn, hiByte mn]
  | .ldMnIndSs mn ss => [0xED#8, 0b01000011#8 ||| (ss.code <<< 4), loByte mn, hiByte mn]
  | .ldMnIndIx mn => [0xDD#8, 0b00100010#8, loByte mn, hiByte mn]
  | .ldMnIndIy mn => [0xFD#8, 0b00100010#8, loByte mn, hiByte mn]
  | .ldSpHl => [0b11111001#8]
  | .pushTt tt => [0b11000101#8 ||| (tt.code <<< 4)]
  | .pushIx => [0xDD#8, 0b11100101#8]
  | .pushIy => [0xFD#8, 0b11100101#8]
  | .popTt tt => [0b11000001#8 ||| (tt.code <<< 4)]
  | .popIx => [0xDD#8, 0b11100001#8]
  | .popIy => [0xFD#8, 0b11100001#8]
  | .ldSpIx => [0xDD#8, 0b11111001#8]
  | .ldSpIy => [0xFD#8, 0b11111001#8]
  | .exAfAf => [0b00001000#8]
  | .exx => [0b11011001#8]
  | .exDeHl => [0b11101011#8]
  | .exSpIndHl => [0b11100011#8]
  | .exSpIndIx => [0xDD#8, 0b11100011#8]
  | .exSpIndIy => [0xFD#8, 0b11100011#8]
  -- 8-bit arithmetic and logic (spec 42_alu8.md)
  | .addAR r => [0b10000000#8 ||| r.code]
  | .addAHlInd => [0b10000110#8]
  | .addAN n => [0b11000110#8, n]
  | .addAIxInd d => [0xDD#8, 0b10000110#8, d]
  | .addAIyInd d => [0xFD#8, 0b10000110#8, d]
  | .adcAR r => [0b10001000#8 ||| r.code]
  | .adcAHlInd => [0b10001110#8]
  | .adcAN n => [0b11001110#8, n]
  | .adcAIxInd d => [0xDD#8, 0b10001110#8, d]
  | .adcAIyInd d => [0xFD#8, 0b10001110#8, d]
  | .subAR r => [0b10010000#8 ||| r.code]
  | .subAHlInd => [0b10010110#8]
  | .subAN n => [0b11010110#8, n]
  | .subAIxInd d => [0xDD#8, 0b10010110#8, d]
  | .subAIyInd d => [0xFD#8, 0b10010110#8, d]
  | .sbcAR r => [0b10011000#8 ||| r.code]
  | .sbcAHlInd => [0b10011110#8]
  | .sbcAN n => [0b11011110#8, n]
  | .sbcAIxInd d => [0xDD#8, 0b10011110#8, d]
  | .sbcAIyInd d => [0xFD#8, 0b10011110#8, d]
  | .andAR r => [0b10100000#8 ||| r.code]
  | .andAHlInd => [0b10100110#8]
  | .andAN n => [0b11100110#8, n]
  | .andAIxInd d => [0xDD#8, 0b10100110#8, d]
  | .andAIyInd d => [0xFD#8, 0b10100110#8, d]
  | .xorAR r => [0b10101000#8 ||| r.code]
  | .xorAHlInd => [0b10101110#8]
  | .xorAN n => [0b11101110#8, n]
  | .xorAIxInd d => [0xDD#8, 0b10101110#8, d]
  | .xorAIyInd d => [0xFD#8, 0b10101110#8, d]
  | .orAR r => [0b10110000#8 ||| r.code]
  | .orAHlInd => [0b10110110#8]
  | .orAN n => [0b11110110#8, n]
  | .orAIxInd d => [0xDD#8, 0b10110110#8, d]
  | .orAIyInd d => [0xFD#8, 0b10110110#8, d]
  | .cpAR r => [0b10111000#8 ||| r.code]
  | .cpAHlInd => [0b10111110#8]
  | .cpAN n => [0b11111110#8, n]
  | .cpAIxInd d => [0xDD#8, 0b10111110#8, d]
  | .cpAIyInd d => [0xFD#8, 0b10111110#8, d]
  | .incR r => [0b00000100#8 ||| (r.code <<< 3)]
  | .incHlInd => [0b00110100#8]
  | .incIxInd d => [0xDD#8, 0b00110100#8, d]
  | .incIyInd d => [0xFD#8, 0b00110100#8, d]
  | .decR r => [0b00000101#8 ||| (r.code <<< 3)]
  | .decHlInd => [0b00110101#8]
  | .decIxInd d => [0xDD#8, 0b00110101#8, d]
  | .decIyInd d => [0xFD#8, 0b00110101#8, d]
  | .daa => [0b00100111#8]
  | .cpl => [0b00101111#8]
  | .neg => [0xED#8, 0b01000100#8]
  | .ccf => [0b00111111#8]
  | .scf => [0b00110111#8]
  -- 16-bit arithmetic (spec 43_alu16.md)
  | .addHlSs ss => [0b00001001#8 ||| (ss.code <<< 4)]
  | .addIxXx xx => [0xDD#8, 0b00001001#8 ||| (xx.code <<< 4)]
  | .addIyYy yy => [0xFD#8, 0b00001001#8 ||| (yy.code <<< 4)]
  | .adcHlSs ss => [0xED#8, 0b01001010#8 ||| (ss.code <<< 4)]
  | .sbcHlSs ss => [0xED#8, 0b01000010#8 ||| (ss.code <<< 4)]
  | .incSs dd => [0b00000011#8 ||| (dd.code <<< 4)]
  | .incIx => [0xDD#8, 0b00100011#8]
  | .incIy => [0xFD#8, 0b00100011#8]
  | .decSs dd => [0b00001011#8 ||| (dd.code <<< 4)]
  | .decIx => [0xDD#8, 0b00101011#8]
  | .decIy => [0xFD#8, 0b00101011#8]
  -- Rotates, shifts, digit rotates and bits (spec 44_rotate_shift_bit.md)
  | .rlca => [0b00000111#8]
  | .rla => [0b00010111#8]
  | .rrca => [0b00001111#8]
  | .rra => [0b00011111#8]
  | .rlcR r => [0xCB#8, 0b00000000#8 ||| r.code]
  | .rlcHlInd => [0xCB#8, 0b00000110#8]
  | .rlcIxInd d => [0xDD#8, 0xCB#8, d, 0b00000110#8]
  | .rlcIyInd d => [0xFD#8, 0xCB#8, d, 0b00000110#8]
  | .rlR r => [0xCB#8, 0b00010000#8 ||| r.code]
  | .rlHlInd => [0xCB#8, 0b00010110#8]
  | .rlIxInd d => [0xDD#8, 0xCB#8, d, 0b00010110#8]
  | .rlIyInd d => [0xFD#8, 0xCB#8, d, 0b00010110#8]
  | .rrcR r => [0xCB#8, 0b00001000#8 ||| r.code]
  | .rrcHlInd => [0xCB#8, 0b00001110#8]
  | .rrcIxInd d => [0xDD#8, 0xCB#8, d, 0b00001110#8]
  | .rrcIyInd d => [0xFD#8, 0xCB#8, d, 0b00001110#8]
  | .rrR r => [0xCB#8, 0b00011000#8 ||| r.code]
  | .rrHlInd => [0xCB#8, 0b00011110#8]
  | .rrIxInd d => [0xDD#8, 0xCB#8, d, 0b00011110#8]
  | .rrIyInd d => [0xFD#8, 0xCB#8, d, 0b00011110#8]
  | .slaR r => [0xCB#8, 0b00100000#8 ||| r.code]
  | .slaHlInd => [0xCB#8, 0b00100110#8]
  | .slaIxInd d => [0xDD#8, 0xCB#8, d, 0b00100110#8]
  | .slaIyInd d => [0xFD#8, 0xCB#8, d, 0b00100110#8]
  | .sraR r => [0xCB#8, 0b00101000#8 ||| r.code]
  | .sraHlInd => [0xCB#8, 0b00101110#8]
  | .sraIxInd d => [0xDD#8, 0xCB#8, d, 0b00101110#8]
  | .sraIyInd d => [0xFD#8, 0xCB#8, d, 0b00101110#8]
  | .srlR r => [0xCB#8, 0b00111000#8 ||| r.code]
  | .srlHlInd => [0xCB#8, 0b00111110#8]
  | .srlIxInd d => [0xDD#8, 0xCB#8, d, 0b00111110#8]
  | .srlIyInd d => [0xFD#8, 0xCB#8, d, 0b00111110#8]
  | .rld => [0xED#8, 0b01101111#8]
  | .rrd => [0xED#8, 0b01100111#8]
  | .bitR b r => [0xCB#8, 0b01000000#8 ||| (BitVec.ofNat 8 b <<< 3) ||| r.code]
  | .bitHlInd b => [0xCB#8, 0b01000110#8 ||| (BitVec.ofNat 8 b <<< 3)]
  | .bitIxInd b d => [0xDD#8, 0xCB#8, d, 0b01000110#8 ||| (BitVec.ofNat 8 b <<< 3)]
  | .bitIyInd b d => [0xFD#8, 0xCB#8, d, 0b01000110#8 ||| (BitVec.ofNat 8 b <<< 3)]
  | .setR b r => [0xCB#8, 0b11000000#8 ||| (BitVec.ofNat 8 b <<< 3) ||| r.code]
  | .setHlInd b => [0xCB#8, 0b11000110#8 ||| (BitVec.ofNat 8 b <<< 3)]
  | .setIxInd b d => [0xDD#8, 0xCB#8, d, 0b11000110#8 ||| (BitVec.ofNat 8 b <<< 3)]
  | .setIyInd b d => [0xFD#8, 0xCB#8, d, 0b11000110#8 ||| (BitVec.ofNat 8 b <<< 3)]
  | .resR b r => [0xCB#8, 0b10000000#8 ||| (BitVec.ofNat 8 b <<< 3) ||| r.code]
  | .resHlInd b => [0xCB#8, 0b10000110#8 ||| (BitVec.ofNat 8 b <<< 3)]
  | .resIxInd b d => [0xDD#8, 0xCB#8, d, 0b10000110#8 ||| (BitVec.ofNat 8 b <<< 3)]
  | .resIyInd b d => [0xFD#8, 0xCB#8, d, 0b10000110#8 ||| (BitVec.ofNat 8 b <<< 3)]
  -- Block transfer and search (spec 45_block.md)
  | .ldi => [0xED#8, 0b10100000#8]
  | .ldir => [0xED#8, 0b10110000#8]
  | .ldd => [0xED#8, 0b10101000#8]
  | .lddr => [0xED#8, 0b10111000#8]
  | .cpi => [0xED#8, 0b10100001#8]
  | .cpir => [0xED#8, 0b10110001#8]
  | .cpd => [0xED#8, 0b10101001#8]
  | .cpdr => [0xED#8, 0b10111001#8]
  -- Control transfer (spec 46_control_transfer.md)
  | .jpMn mn => [0b11000011#8, loByte mn, hiByte mn]
  | .jpCcMn cc mn => [0b11000010#8 ||| (cc.code <<< 3), loByte mn, hiByte mn]
  | .jpHl => [0b11101001#8]
  | .jpIx => [0xDD#8, 0b11101001#8]
  | .jpIy => [0xFD#8, 0b11101001#8]
  | .jr e => [0b00011000#8, byteOfDistance e]
  | .jrCc cc e => [0b00100000#8 ||| (cc.code <<< 3), byteOfDistance e]
  | .djnz e => [0b00010000#8, byteOfDistance e]
  | .callMn mn => [0b11001101#8, loByte mn, hiByte mn]
  | .callCcMn cc mn => [0b11000100#8 ||| (cc.code <<< 3), loByte mn, hiByte mn]
  | .ret => [0b11001001#8]
  | .retCc cc => [0b11000000#8 ||| (cc.code <<< 3)]
  | .reti => [0xED#8, 0b01001101#8]
  | .retn => [0xED#8, 0b01000101#8]
  | .rst v => [0b11000111#8 ||| v]
  -- Input and output (spec 47_io.md)
  | .inAN n => [0b11011011#8, n]
  | .inRC r => [0xED#8, 0b01000000#8 ||| (r.code <<< 3)]
  | .outNA n => [0b11010011#8, n]
  | .outCR r => [0xED#8, 0b01000001#8 ||| (r.code <<< 3)]
  | .ini => [0xED#8, 0b10100010#8]
  | .inir => [0xED#8, 0b10110010#8]
  | .ind => [0xED#8, 0b10101010#8]
  | .indr => [0xED#8, 0b10111010#8]
  | .outi => [0xED#8, 0b10100011#8]
  | .otir => [0xED#8, 0b10110011#8]
  | .outd => [0xED#8, 0b10101011#8]
  | .otdr => [0xED#8, 0b10111011#8]
  -- CPU control (spec 48_cpu_control.md)
  | .nop => [0b00000000#8]
  | .halt => [0b01110110#8]
  | .di => [0b11110011#8]
  | .ei => [0b11111011#8]
  | .im0 => [0xED#8, 0b01000110#8]
  | .im1 => [0xED#8, 0b01010110#8]
  | .im2 => [0xED#8, 0b01011110#8]

/-- The `k` bytes of the number `w`, its most significant byte first: the first byte of the instruction is the most
significant byte of the table's number (spec/opcode_table.json `match`, R91). -/
def bytesOfNumber : Nat → Nat → List Byte
  | 0, _ => []
  | k + 1, w => BitVec.ofNat 8 (w / 256 ^ k) :: bytesOfNumber k w

/-- How many of the bytes the decoder reads, where it reads an instruction. -/
def decodedLength (bs : List Byte) : Nat :=
  match decode bs with
  | .ok (i, _) => i.length
  | .error _ => 0

/-- The bytes of a table word of `nbits` bits as they lie in memory, and zeros up to four bytes. The opcode table writes
the first byte as the most significant one; a word that is no whole instruction of `nbits` bits in that numbering is read in
the other one, first byte least significant (log entry 26). -/
def tableBytes (nbits w : Nat) : List Byte :=
  let k := (nbits + 7) / 8
  let bs := bytesOfNumber k w
  let pad := List.replicate (4 - k) (0x00#8)
  if decodedLength (bs ++ pad) = k then bs ++ pad else bs.reverse ++ pad

/-- The instruction the decoder reads from a word of the opcode table; none where it refuses the word, or reads fewer bytes than
the word has (log entry 26). -/
def decodeTableWord (nbits w : Nat) : Option Instr :=
  match decode (tableBytes nbits w) with
  | .ok (i, _) => if i.length < (nbits + 7) / 8 then Option.none else some i
  | .error _ => Option.none

end Sys2Proof
end

