-- ==== Sys2Proof/Machine/State.lean ====
section
/-! DEFINITION. The machine state as plain data (spec 10_state.md), the reasons a step stops, and the state after
reset (R41, R451). -/

namespace Sys2Proof.Machine

/-- The interrupt mode IM, one of three values (R29). -/
inductive IntMode where
  | im0 | im1 | im2
  deriving DecidableEq, Repr

/-- The reset inputs at a boundary (R41, R450, R452): none; `resetb` alone; `resetb` with `clearb`, as at power-on. -/
inductive ResetInput where
  | inactive | user | powerOn
  deriving DecidableEq, Repr

/-- What stands behind a memory address, the parameter `MEM` (R4, R69, D13). -/
inductive Backing where
  /-- Plain RAM: a read gives what was last written. -/
  | ram
  /-- ROM: a read gives its contents, a write changes nothing. -/
  | rom
  /-- Nothing: the byte a read gives is an input (R14), a write changes nothing. -/
  | nothing
  /-- A device: the byte a read gives is an input (R14), what a write does to it is the device's. -/
  | device
  deriving DecidableEq, Repr

/-- A range of addresses with one backing: `size` addresses from `first` on, wrapping (log entry 7). -/
structure Region where
  first : Word
  size : Nat
  kind : Backing
  deriving DecidableEq, Repr

/-- What the other bus master may do during a grant: memory and, where the platform allows it, I/O reads and writes (R76). That
the platform of the model allows the I/O accesses is the model's choice (log entry 24). -/
inductive DmaAccess where
  | memRead (addr : Word)
  | memWrite (addr : Word) (v : Byte)
  | ioRead (port : Word)
  | ioWrite (port : Word) (v : Byte)
  deriving DecidableEq, Repr

/-- What the environment presents at one boundary (R14, R402): the reset inputs; `dma_req` with the accesses the other master
makes while it holds the bus (R76, R421; `none` is no request; I/O accesses are among them by the model's choice, log entry
24); `nmi_req`; `int_req`; and the byte on `ivec_data_in`, which only an acknowledge samples (R36). -/
structure Sample where
  reset : ResetInput
  dma : Option (List DmaAccess)
  nmiReq : Bool
  intReq : Bool
  ivec : Byte
  deriving DecidableEq, Repr

/-- A bus transaction the CPU emits (R78), and two events by which the trace allows either of what the spec leaves open about
discarded and repeated reads and idle transactions (log entries 8, 17 and 33). -/
inductive BusEvent where
  /-- A memory read transaction, of an instruction byte or of data, and the byte it gave. -/
  | memRead (addr : Word) (v : Byte)
  /-- A memory write transaction of one byte. -/
  | memWrite (addr : Word) (v : Byte)
  /-- An I/O read transaction and the byte the environment supplied. -/
  | ioRead (port : Word) (v : Byte)
  /-- An I/O write transaction. -/
  | ioWrite (port : Word) (v : Byte)
  /-- An interrupt acknowledge transaction and the vector byte sampled in it. -/
  | iack (v : Byte)
  /-- The RETI notification. -/
  | reti
  /-- One machine cycle of the Halt state. -/
  | halt
  /-- An idle bus transaction that a rule places: the address calculation of a mode 2 acknowledge (R412). -/
  | idle
  /-- The bus granted to the other master at a boundary. -/
  | dmaGrant
  /-- Model's own: a repeating block instruction at this address goes on; `read` says whether its opcode bytes are read again,
  which R290 leaves open. It stands for the reads of all the bytes found there, also where they were changed since and are not
  two: the model's choice (log entry 33). -/
  | refetch (addr : Word) (read : Bool)
  /-- Model's own: the transactions of an instruction that no rule lists: so many discarded memory reads at and just after the
  address of the next instruction (R68, D11), and so many idle transactions (R78). -/
  | unlisted (addr : Word) (reads idles : Nat)
  deriving DecidableEq, Repr

/-- Memory as the cells that differ from what an unlisted address reads as, addresses strictly rising. -/
abbrev Memory := List Host.Cell

/-- The Y80 raises no synchronous exception and has no bus error (R400, R70): no step of the model faults, so there is
no reason to name. Safe: the spec names none. -/
inductive Fault
  deriving DecidableEq, Repr

/-- Why the model gives a step no successor state. -/
inductive Refusal where
  /-- Raised by the dispatch for an instruction without a meaning yet; no arm raises it. Safe. -/
  | notModelled (mnemonic : String)
  /-- Raised by a step whose bytes at PC have no entry in the opcode tables (R112, D1). Safe: the spec gives them no
  successor state. -/
  | undefinedEncoding (e : DecodeError)
  /-- Raised by a Mode 2 acknowledge whose vector byte is odd (R413, D12). Safe: the spec gives it no successor state. -/
  | oddVector (v : Byte)
  deriving DecidableEq, Repr

/-- The state of the Y80 (10_state.md) with the environment's queued inputs and the emitted bus transactions. -/
structure State where
  /-- A, the accumulator (R20). -/
  a : Byte
  /-- F, the flags S Z U5 H U3 P/V N C, bit 7 first (R24). -/
  f : Byte
  /-- B (R20). -/
  b : Byte
  /-- C (R20). -/
  c : Byte
  /-- D (R20). -/
  d : Byte
  /-- E (R20). -/
  e : Byte
  /-- H (R20). -/
  h : Byte
  /-- L (R20). -/
  l : Byte
  /-- A' (R21). -/
  aAlt : Byte
  /-- F' (R21). -/
  fAlt : Byte
  /-- B' (R21). -/
  bAlt : Byte
  /-- C' (R21). -/
  cAlt : Byte
  /-- D' (R21). -/
  dAlt : Byte
  /-- E' (R21). -/
  eAlt : Byte
  /-- H' (R21). -/
  hAlt : Byte
  /-- L' (R21). -/
  lAlt : Byte
  /-- IX (R27). -/
  ix : Word
  /-- IY (R27). -/
  iy : Word
  /-- SP (R32). -/
  sp : Word
  /-- PC at the boundary: the address of the next instruction (R33). -/
  pc : Word
  /-- I, the interrupt table page (R30). -/
  iReg : Byte
  /-- R, on the Y80 a plain register (R31). -/
  rReg : Byte
  /-- IFF1, the interrupt enable (R28). -/
  iff1 : Bool
  /-- IFF2, the copy that survives a non-maskable interrupt (R28). -/
  iff2 : Bool
  /-- IM (R29). -/
  im : IntMode
  /-- In the Halt state (R38). -/
  halted : Bool
  /-- The latch of the non-maskable request (R37). -/
  nmiPending : Bool
  /-- Memory (R34). -/
  mem : Memory
  /-- The parameter `MEM`: what stands behind each address; the first region that holds the address counts, and an address in
  none is plain RAM (R4, D13; log entry 7). No step changes it. -/
  memMap : List Region
  /-- Model's own: the samples of the boundaries to come; past the last one nothing is requested (log entry 4). -/
  inputs : List Sample
  /-- Model's own: the bytes the I/O reads to come return (R64; log entry 3). -/
  ioIn : List Byte
  /-- Model's own: the bytes the reads to come of memory addresses without storage return (R14; log entry 7). -/
  memIn : List Byte
  /-- Model's own: the step before was an iteration of a repeating block instruction that goes on (R290; log entry 17). -/
  repeating : Bool
  /-- Model's own: the bus transactions emitted so far, newest first (R78; log entry 9). -/
  trace : List BusEvent
  /-- Model's own: how many free values have been drawn (log entry 2). -/
  draws : Nat
  deriving DecidableEq, Repr

/-- The machine right after a power-on reset (R41, R451, R452): PC 0, interrupts off, mode 0, not halted, nothing latched;
I, R, SP and the registers only `clearb` initialises at the values log entry 5 names; memory with nothing listed, and
plain RAM behind every address, the spec's default (D13; log entry 7). -/
def State.reset : State where
  a := Config.powerOnByte
  f := Config.powerOnByte
  b := Config.powerOnByte
  c := Config.powerOnByte
  d := Config.powerOnByte
  e := Config.powerOnByte
  h := Config.powerOnByte
  l := Config.powerOnByte
  aAlt := Config.powerOnByte
  fAlt := Config.powerOnByte
  bAlt := Config.powerOnByte
  cAlt := Config.powerOnByte
  dAlt := Config.powerOnByte
  eAlt := Config.powerOnByte
  hAlt := Config.powerOnByte
  lAlt := Config.powerOnByte
  ix := Config.powerOnWord
  iy := Config.powerOnWord
  sp := Config.resetSp
  pc := 0x0000#16
  iReg := Config.resetI
  rReg := Config.resetR
  iff1 := false
  iff2 := false
  im := .im0
  halted := false
  nmiPending := false
  mem := []
  memMap := []
  inputs := []
  ioIn := []
  memIn := []
  repeating := false
  trace := []
  draws := 0

end Sys2Proof.Machine
end

