-- ==== Sys2Proof/Machine/Regs.lean ====
section
/-! DEFINITION. Reading and writing registers: every read and write of a register goes through these. -/

namespace Sys2Proof.Machine

/-- A meaning's result. -/
abbrev Result := Host.Outcome State Fault Refusal

/-- The pair BC, B the high byte (R22). -/
def State.bc (s : State) : Word := word16 s.b s.c

/-- The pair DE, D the high byte (R22). -/
def State.de (s : State) : Word := word16 s.d s.e

/-- The pair HL, H the high byte (R22). -/
def State.hl (s : State) : Word := word16 s.h s.l

/-- The pair AF, A the high byte (R22). -/
def State.af (s : State) : Word := word16 s.a s.f

/-- `r8[c]`: the 8-bit register a name selects (R92). -/
def State.r8 (s : State) : Reg8 → Byte
  | .b => s.b | .c => s.c | .d => s.d | .e => s.e | .h => s.h | .l => s.l | .a => s.a

/-- `rp_dd[c]` (R93). -/
def State.rdd (s : State) : RegDD → Word
  | .bc => s.bc | .de => s.de | .hl => s.hl | .sp => s.sp

/-- `rp_tt[c]` (R93). -/
def State.rtt (s : State) : RegTT → Word
  | .bc => s.bc | .de => s.de | .hl => s.hl | .af => s.af

/-- `rp_xx[c]` (R93). -/
def State.rxx (s : State) : RegXX → Word
  | .bc => s.bc | .de => s.de | .ix => s.ix | .sp => s.sp

/-- `rp_yy[c]` (R93). -/
def State.ryy (s : State) : RegYY → Word
  | .bc => s.bc | .de => s.de | .iy => s.iy | .sp => s.sp

/-- A gets a value. -/
def State.setA (s : State) (v : Byte) : State := { s with a := v }

/-- All eight bits of F get a value. -/
def State.setF (s : State) (v : Byte) : State := { s with f := v }

/-- B gets a value. -/
def State.setB (s : State) (v : Byte) : State := { s with b := v }

/-- Writing BC writes B and C (R22). -/
def State.setBC (s : State) (v : Word) : State := { s with b := hiByte v, c := loByte v }

/-- Writing DE writes D and E (R22). -/
def State.setDE (s : State) (v : Word) : State := { s with d := hiByte v, e := loByte v }

/-- Writing HL writes H and L (R22). -/
def State.setHL (s : State) (v : Word) : State := { s with h := hiByte v, l := loByte v }

/-- Writing AF writes A and all eight bits of F (R22, R170). -/
def State.setAF (s : State) (v : Word) : State := { s with a := hiByte v, f := loByte v }

/-- IX gets a value. -/
def State.setIX (s : State) (v : Word) : State := { s with ix := v }

/-- IY gets a value. -/
def State.setIY (s : State) (v : Word) : State := { s with iy := v }

/-- SP gets a value. -/
def State.setSP (s : State) (v : Word) : State := { s with sp := v }

/-- The next instruction is fetched at a given address (R5 `pc <- t`). -/
def State.setPC (s : State) (v : Word) : State := { s with pc := v }

/-- I gets a value (R30). -/
def State.setI (s : State) (v : Byte) : State := { s with iReg := v }

/-- R gets a value (R31). -/
def State.setR (s : State) (v : Byte) : State := { s with rReg := v }

/-- IFF1 and IFF2 get values (R28). -/
def State.setIff (s : State) (v1 v2 : Bool) : State := { s with iff1 := v1, iff2 := v2 }

/-- IM gets a value (R29). -/
def State.setIM (s : State) (m : IntMode) : State := { s with im := m }

/-- The Halt state is entered or left (R38). -/
def State.setHalted (s : State) (v : Bool) : State := { s with halted := v }

/-- The latch of the non-maskable request is set or cleared (R37). -/
def State.setNmiPending (s : State) (v : Bool) : State := { s with nmiPending := v }

/-- A repeating block instruction goes on, or does not (R290). -/
def State.setRepeating (s : State) (v : Bool) : State := { s with repeating := v }

/-- `r8[c] <- v` (R92). -/
def State.setR8 (s : State) (r : Reg8) (v : Byte) : State :=
  match r with
  | .b => { s with b := v }
  | .c => { s with c := v }
  | .d => { s with d := v }
  | .e => { s with e := v }
  | .h => { s with h := v }
  | .l => { s with l := v }
  | .a => { s with a := v }

/-- `rp_dd[c] <- v` (R93). -/
def State.setRdd (s : State) (r : RegDD) (v : Word) : State :=
  match r with
  | .bc => s.setBC v
  | .de => s.setDE v
  | .hl => s.setHL v
  | .sp => s.setSP v

/-- `rp_tt[c] <- v` (R93). -/
def State.setRtt (s : State) (r : RegTT) (v : Word) : State :=
  match r with
  | .bc => s.setBC v
  | .de => s.setDE v
  | .hl => s.setHL v
  | .af => s.setAF v

/-- A and F change places with A' and F' (R21, R173; written as a swap of values, D18). -/
def State.swapAF (s : State) : State :=
  { s with a := s.aAlt, f := s.fAlt, aAlt := s.a, fAlt := s.f }

/-- B, C, D, E, H and L change places with their alternates (R21, R174). -/
def State.swapBank (s : State) : State :=
  { s with
    b := s.bAlt, c := s.cAlt, d := s.dAlt, e := s.eAlt, h := s.hAlt, l := s.lAlt
    bAlt := s.b, cAlt := s.c, dAlt := s.d, eAlt := s.e, hAlt := s.h, lAlt := s.l }

/-- `pc <- pcn`: the instruction has `len` bytes and the next one follows it (R33, R13). -/
def State.advance (s : State) (len : Nat) : State := s.setPC (s.pc + BitVec.ofNat 16 len)

end Sys2Proof.Machine
end

