-- ==== Sys2Proof/Machine/Flags.lean ====
section
/-! DEFINITION. The arithmetic primitives and every flag computation (00_scope.md R7 to R12, 10_state.md R24 to R26). -/

namespace Sys2Proof.Machine

/-- The six flags an instruction can define (R24), without the unused bits 5 and 3. -/
structure Flags where
  s : Bool
  z : Bool
  h : Bool
  pv : Bool
  n : Bool
  c : Bool
  deriving DecidableEq, Repr

/-- The byte S Z U5 H U3 P/V N C, bit 7 first (R24). -/
def packFlags (s z u5 h u3 pv n c : Bool) : Byte :=
  BitVec.ofNat 8 (128 * s.toNat + 64 * z.toNat + 32 * u5.toNat + 16 * h.toNat + 8 * u3.toNat + 4 * pv.toNat
    + 2 * n.toNat + c.toNat)

/-- The six defined flags held in a flag byte (R24). -/
def unpackFlags (v : Byte) : Flags where
  s := v.getLsbD 7
  z := v.getLsbD 6
  h := v.getLsbD 4
  pv := v.getLsbD 2
  n := v.getLsbD 1
  c := v.getLsbD 0

/-- The six flags as they stand. -/
def State.flags (s : State) : Flags := unpackFlags s.f

/-- What every instruction that writes a flag does to F: the six flags, and a free value in each of U5 and U3, taken
from the next draw (R26, D2; log entry 2). -/
def State.writeFlags (s : State) (fl : Flags) : State :=
  let u := Config.anyByte s.draws
  { s with
    f := packFlags fl.s fl.z (u.getLsbD 5) fl.h (u.getLsbD 3) fl.pv fl.n fl.c
    draws := s.draws + 1 }

/-- A free value has been drawn. -/
def State.drew (s : State) : State := { s with draws := s.draws + 1 }

/-- `parity_even`: the number of 1 bits is even (R7). -/
def parityEven (v : Byte) : Bool :=
  ((v.getLsbD 0).toNat + (v.getLsbD 1).toNat + (v.getLsbD 2).toNat + (v.getLsbD 3).toNat + (v.getLsbD 4).toNat
    + (v.getLsbD 5).toNat + (v.getLsbD 6).toNat + (v.getLsbD 7).toNat) % 2 == 0

/-- The result `(r, h, v, cy)` of an 8-bit addition or subtraction (R8, R9). -/
structure Arith8 where
  r : Byte
  h : Bool
  v : Bool
  cy : Bool
  deriving DecidableEq, Repr

/-- The result `(r, h, v, cy)` of a 16-bit addition or subtraction (R10, R11). -/
structure Arith16 where
  r : Word
  h : Bool
  v : Bool
  cy : Bool
  deriving DecidableEq, Repr

/-- `add8` (R8). -/
def add8 (a b : Byte) (c : Bool) : Arith8 :=
  let s9 := a.toNat + b.toNat + c.toNat
  let r := BitVec.ofNat 8 s9
  { r := r
    h := decide (0xF < a.toNat % 16 + b.toNat % 16 + c.toNat)
    v := a.msb == b.msb && r.msb != a.msb
    cy := decide (0xFF < s9) }

/-- `sub8` (R9). -/
def sub8 (a b : Byte) (c : Bool) : Arith8 :=
  let r := a - b - BitVec.ofNat 8 c.toNat
  { r := r
    h := decide (a.toNat % 16 < b.toNat % 16 + c.toNat)
    v := a.msb != b.msb && r.msb != a.msb
    cy := decide (a.toNat < b.toNat + c.toNat) }

/-- `add16` (R10). -/
def add16 (a b : Word) (c : Bool) : Arith16 :=
  let s17 := a.toNat + b.toNat + c.toNat
  let r := BitVec.ofNat 16 s17
  { r := r
    h := decide (0xFFF < a.toNat % 4096 + b.toNat % 4096 + c.toNat)
    v := a.msb == b.msb && r.msb != a.msb
    cy := decide (0xFFFF < s17) }

/-- `sub16` (R11). -/
def sub16 (a b : Word) (c : Bool) : Arith16 :=
  let r := a - b - BitVec.ofNat 16 c.toNat
  { r := r
    h := decide (a.toNat % 4096 < b.toNat % 4096 + c.toNat)
    v := a.msb != b.msb && r.msb != a.msb
    cy := decide (a.toNat < b.toNat + c.toNat) }

/-- The flags of an 8-bit addition (`n` false) or subtraction (`n` true): R191, R193. -/
def arithFlags (o : Arith8) (n : Bool) : Flags :=
  { s := o.r.msb, z := o.r == 0#8, h := o.h, pv := o.v, n := n, c := o.cy }

/-- The flags of a 16-bit addition or subtraction with carry: R232, R233. -/
def arithFlags16 (o : Arith16) (n : Bool) : Flags :=
  { s := o.r.msb, z := o.r == 0#16, h := o.h, pv := o.v, n := n, c := o.cy }

/-- The flags of AND (`h` true), XOR and OR (`h` false): R195 to R197. -/
def logicFlags (r : Byte) (h : Bool) : Flags :=
  { s := r.msb, z := r == 0#8, h := h, pv := parityEven r, n := false, c := false }

/-- A shifted or rotated byte and the bit shifted out. -/
structure Shifted where
  r : Byte
  c : Bool
  deriving DecidableEq, Repr

/-- The flags of the CB-page rotates and shifts (44_rotate_shift_bit.md section 3). -/
def shiftFlags (o : Shifted) : Flags :=
  { s := o.r.msb, z := o.r == 0#8, h := false, pv := parityEven o.r, n := false, c := o.c }

/-- RLC: `c <- v[7]; r <- {v[6:0], v[7]}` (R255). -/
def rlc (v : Byte) (_ : Bool) : Shifted := { r := (v.extractLsb' 0 7).concat (v.getLsbD 7), c := v.getLsbD 7 }

/-- RL: `c <- v[7]; r <- {v[6:0], F.C}` (R256). -/
def rl (v : Byte) (cf : Bool) : Shifted := { r := (v.extractLsb' 0 7).concat cf, c := v.getLsbD 7 }

/-- RRC: `c <- v[0]; r <- {v[0], v[7:1]}` (R257). -/
def rrc (v : Byte) (_ : Bool) : Shifted := { r := (v.extractLsb' 1 7).cons (v.getLsbD 0), c := v.getLsbD 0 }

/-- RR: `c <- v[0]; r <- {F.C, v[7:1]}` (R258). -/
def rr (v : Byte) (cf : Bool) : Shifted := { r := (v.extractLsb' 1 7).cons cf, c := v.getLsbD 0 }

/-- SLA: `c <- v[7]; r <- {v[6:0], 0}` (R259). -/
def sla (v : Byte) (_ : Bool) : Shifted := { r := (v.extractLsb' 0 7).concat false, c := v.getLsbD 7 }

/-- SRA: `c <- v[0]; r <- {v[7], v[7:1]}` (R260). -/
def sra (v : Byte) (_ : Bool) : Shifted := { r := (v.extractLsb' 1 7).cons (v.getLsbD 7), c := v.getLsbD 0 }

/-- SRL: `c <- v[0]; r <- {0, v[7:1]}` (R261). -/
def srl (v : Byte) (_ : Bool) : Shifted := { r := (v.extractLsb' 1 7).cons false, c := v.getLsbD 0 }

/-- `cond(fff)` on the flags (R100). -/
def condHolds (fl : Flags) : Cond → Bool
  | .nz => !fl.z
  | .z => fl.z
  | .nc => !fl.c
  | .c => fl.c
  | .po => !fl.pv
  | .pe => fl.pv
  | .p => !fl.s
  | .m => fl.s

/-- The condition of JR cc on the flags (R101). -/
def ccHolds (fl : Flags) : CC → Bool
  | .nz => !fl.z
  | .z => fl.z
  | .nc => !fl.c
  | .c => fl.c

/-- One row of the DAA table (R201): the flags N, C and H before, the ranges of the two nibbles of A, what is added to A
and C after. -/
structure DaaRow where
  n : Bool
  c : Bool
  hiMin : Nat
  hiMax : Nat
  h : Bool
  loMin : Nat
  loMax : Nat
  add : Byte
  cAfter : Bool
  deriving DecidableEq, Repr

/-- The DAA table, row for row (R201). -/
def daaTable : List DaaRow :=
  [ ⟨false, false, 0x0, 0x9, false, 0x0, 0x9, 0x00#8, false⟩,
    ⟨false, false, 0x0, 0x8, false, 0xA, 0xF, 0x06#8, false⟩,
    ⟨false, false, 0x0, 0x9, true, 0x0, 0x3, 0x06#8, false⟩,
    ⟨false, false, 0xA, 0xF, false, 0x0, 0x9, 0x60#8, true⟩,
    ⟨false, false, 0x9, 0xF, false, 0xA, 0xF, 0x66#8, true⟩,
    ⟨false, false, 0xA, 0xF, true, 0x0, 0x3, 0x66#8, true⟩,
    ⟨false, true, 0x0, 0x2, false, 0x0, 0x9, 0x60#8, true⟩,
    ⟨false, true, 0x0, 0x2, false, 0xA, 0xF, 0x66#8, true⟩,
    ⟨false, true, 0x0, 0x3, true, 0x0, 0x3, 0x66#8, true⟩,
    ⟨true, false, 0x0, 0x9, false, 0x0, 0x9, 0x00#8, false⟩,
    ⟨true, false, 0x0, 0x8, true, 0x6, 0xF, 0xFA#8, false⟩,
    ⟨true, true, 0x7, 0xF, false, 0x0, 0x9, 0xA0#8, true⟩,
    ⟨true, true, 0x6, 0xF, true, 0x6, 0xF, 0x9A#8, true⟩ ]

/-- The row fits A and the flags before the instruction (R201). -/
def daaRowFits (a : Byte) (fl : Flags) (r : DaaRow) : Bool :=
  let hi := a.toNat / 16
  let lo := a.toNat % 16
  r.n == fl.n && r.c == fl.c && r.h == fl.h && decide (r.hiMin ≤ hi) && decide (hi ≤ r.hiMax)
    && decide (r.loMin ≤ lo) && decide (lo ≤ r.loMax)

/-- The row of the table that matches, if any (R201). -/
def daaRow (a : Byte) (fl : Flags) : Option DaaRow := daaTable.find? (daaRowFits a fl)

end Sys2Proof.Machine
end

