-- ==== Sys2Proof/Machine/Ops.lean ====
section
/-! DEFINITION. The operations over memory, the stack, the I/O space and the bus (20_memory.md), the one operation that
takes an interrupt (60_exceptions.md R412) and the one that returns from it (R415). -/

namespace Sys2Proof.Machine

/-- Addresses strictly rising, all above a bound. -/
def risingFrom : Option Nat → Memory → Bool
  | _, [] => true
  | lo, (k, _) :: rest => (match lo with | none => true | some p => decide (p < k)) && risingFrom (some k) rest

/-- The canonical form of a memory: addresses strictly rising and inside the 64K space (R34), no cell that reads as an
unlisted one does. -/
def Memory.wf (m : Memory) : Bool :=
  risingFrom none m && m.all fun cell => decide (cell.1 < 65536) && cell.2 != Config.unlistedByte

/-- The byte at an address (R62); an address not listed reads as `Config.unlistedByte`. -/
def memRead : Memory → Nat → Byte
  | [], _ => Config.unlistedByte
  | (k, v) :: rest, a => if k = a then v else memRead rest a

/-- The memory without a cell for an address. -/
def memErase : Memory → Nat → Memory
  | [], _ => []
  | (k, v) :: rest, a => if k = a then memErase rest a else (k, v) :: memErase rest a

/-- The memory with a cell for an address, kept in order. -/
def memInsert : Memory → Nat → Byte → Memory
  | [], a, v => [(a, v)]
  | (k, w) :: rest, a, v =>
    if k = a then (a, v) :: rest
    else if a < k then (a, v) :: (k, w) :: rest
    else (k, w) :: memInsert rest a v

/-- The memory after a byte is written (R62), in canonical form. -/
def memWrite (m : Memory) (a : Nat) (v : Byte) : Memory :=
  if v = Config.unlistedByte then memErase m a else memInsert m a v

/-- A bus transaction has been emitted (R78). -/
def State.emit (s : State) (ev : BusEvent) : State := { s with trace := ev :: s.trace }

/-- The address lies in the region. -/
def Region.contains (r : Region) (a : Word) : Bool := decide ((a - r.first).toNat < r.size)

/-- What stands behind an address (R4, D13; log entry 7). -/
def State.backing (s : State) (a : Word) : Backing :=
  match s.memMap.find? fun r => r.contains a with
  | some r => r.kind
  | none => .ram

/-- A read of the address gives what memory holds there: RAM and ROM. -/
def State.holds (s : State) (a : Word) : Bool :=
  match s.backing a with
  | .ram => true
  | .rom => true
  | .nothing => false
  | .device => false

/-- A write to the address is kept there: RAM. -/
def State.keeps (s : State) (a : Word) : Bool :=
  match s.backing a with
  | .ram => true
  | .rom => false
  | .nothing => false
  | .device => false

/-- The byte memory holds at an address. -/
def State.cell (s : State) (a : Word) : Byte := memRead s.mem a.toNat

/-- The byte `MemRead(addr, 1)` returns (R62): what memory holds at an address of RAM or ROM; of any other address the next
queued input byte, else a free value (R14, D13; log entry 7). -/
def State.readByte (s : State) (a : Word) : Byte :=
  if s.holds a then s.cell a
  else match s.memIn with
    | v :: _ => v
    | [] => Config.memByte s.draws a

/-- The state after `MemRead(addr, 1)`: the transaction is emitted (R62, R78), and where an input byte was returned it is
consumed. A read changes nothing else (R68). -/
def State.readDone (s : State) (a : Word) : State :=
  { s with
    memIn := if s.holds a then s.memIn else s.memIn.tail
    draws := if s.holds a || !s.memIn.isEmpty then s.draws else s.draws + 1
    trace := .memRead a (s.readByte a) :: s.trace }

/-- Memory after a byte is written at an address: RAM keeps it, nothing else does (D13; log entry 7). -/
def State.memAfter (s : State) (a : Word) (v : Byte) : Memory := if s.keeps a then memWrite s.mem a.toNat v else s.mem

/-- `MemWrite(addr, 1, v)` (R62): the transaction is emitted, and memory keeps the byte where RAM is. -/
def State.writeByte (s : State) (a : Word) (v : Byte) : State :=
  { s with mem := s.memAfter a v, trace := .memWrite a v :: s.trace }

/-- The word `MemRead16(addr)` returns: the low byte at the lower address, read first, wrapping (R60, R63). -/
def State.readWord (s : State) (a : Word) : Word := word16 ((s.readDone a).readByte (a + 1)) (s.readByte a)

/-- The state after `MemRead16(addr)` (R63). -/
def State.readWordDone (s : State) (a : Word) : State := (s.readDone a).readDone (a + 1)

/-- `MemWrite16(addr, v)`: the low byte first (R63). -/
def State.writeWord (s : State) (a : Word) (v : Word) : State :=
  (s.writeByte a (loByte v)).writeByte (a + 1) (hiByte v)

/-- `Push16(v)`: the high byte at SP-1 first, then the low byte at SP-2 (R65). -/
def State.push16 (s : State) (v : Word) : State :=
  ((s.writeByte (s.sp - 1) (hiByte v)).writeByte (s.sp - 2) (loByte v)).setSP (s.sp - 2)

/-- The word `Pop16()` returns (R65). -/
def State.topWord (s : State) : Word := s.readWord s.sp

/-- The state after `Pop16()`: both bytes read, SP raised by 2 (R65). -/
def State.dropWord (s : State) : State := (s.readWordDone s.sp).setSP (s.sp + 2)

/-- The byte `IoRead(port)` returns: the next queued input byte, else a free value (R64, D23; log entry 3). -/
def State.ioByte (s : State) (port : Word) : Byte :=
  match s.ioIn with
  | v :: _ => v
  | [] => Config.ioByte s.draws port

/-- The state after `IoRead(port)`: the input byte is consumed and the transaction emitted (R64). -/
def State.ioReadDone (s : State) (port : Word) : State :=
  match s.ioIn with
  | v :: rest => { s with ioIn := rest, trace := .ioRead port v :: s.trace }
  | [] => { s with draws := s.draws + 1, trace := .ioRead port (Config.ioByte s.draws port) :: s.trace }

/-- `IoWrite(port, v)` (R64). -/
def State.ioWrite (s : State) (port : Word) (v : Byte) : State := s.emit (.ioWrite port v)

/-- The first two items of an acknowledge (R412): the aborted fetch, a read at PC whose data is discarded (R68), and the
acknowledge transaction, which samples the vector byte `v`. -/
def State.ackBegin (s : State) (v : Byte) : State := (s.readDone s.pc).emit (.iack v)

/-- The last two items of an acknowledge (R412): the boundary PC is pushed high byte first, and execution goes on at `target`.
The Halt state ends. -/
def State.ackEnter (s : State) (target : Word) : State :=
  (((s.push16 s.pc).setHalted false).setRepeating false).setPC target

/-- TAKING AN INTERRUPT: the acknowledge of every kind and mode but mode 2 (R412). Nothing but PC is saved. -/
def State.acknowledge (s : State) (v : Byte) (target : Word) : State := (s.ackBegin v).ackEnter target

/-- The state of a mode 2 acknowledge before its table read: its idle address calculation cycle is over (R412 item 3). -/
def State.ackTable (s : State) (v : Byte) : State := (s.ackBegin v).emit .idle

/-- The table address `{I, v}` (R413). -/
def State.vectorAddr (s : State) (v : Byte) : Word := word16 s.iReg v

/-- The acknowledge of mode 2 (R412, R413): the target is the word at the table address, low byte first, read before the
pushes. -/
def State.acknowledge2 (s : State) (v : Byte) : State :=
  ((s.ackTable v).readWordDone (s.vectorAddr v)).ackEnter ((s.ackTable v).readWord (s.vectorAddr v))

/-- The maskable acknowledge (R410): entry 0x0038 in modes 0 and 1, the table entry in mode 2; IFF1 and IFF2 are cleared. An odd
vector in mode 2 has no successor state (R413, D12). -/
def ackMaskable (v : Byte) (s : State) : Result :=
  match s.im with
  | .im0 => .next ((s.acknowledge v 0x0038#16).setIff false false)
  | .im1 => .next ((s.acknowledge v 0x0038#16).setIff false false)
  | .im2 =>
    if v.getLsbD 0 then .refused (.oddVector v)
    else .next ((s.acknowledge2 v).setIff false false)

/-- The non-maskable acknowledge (R411): entry 0x0066, IFF1 cleared, IFF2 kept, the latch cleared. -/
def ackNonMaskable (v : Byte) (s : State) : State :=
  ((s.acknowledge v 0x0066#16).setIff false s.iff2).setNmiPending false

/-- RETURNING: `pc <- Pop16()`, common to RET, RETI and RETN (R415). -/
def State.returnFromStack (s : State) : State := s.dropWord.setPC s.topWord

end Sys2Proof.Machine
end

