-- ==== Sys2Proof/Machine/Boundary.lean ====
section
/-! DEFINITION. What happens at a boundary before any instruction runs: the sampling of the request lines, the order in which
they are served (60_exceptions.md R402, R403), reset (70_reset_and_hazards.md R450, R451) and the DMA grant (R421). -/

namespace Sys2Proof.Machine

/-- The lines at this boundary: the next queued sample; past the last one nothing is requested and the vector byte is a free
value (R402, D27; log entries 4 and 31). -/
def State.sample (s : State) : Sample :=
  match s.inputs with
  | smp :: _ => smp
  | [] => ⟨.inactive, none, false, false, Config.idleVector s.trace.length⟩

/-- The state after the lines are sampled: the sample is used up, and a non-maskable request sampled high sets the latch
(R37, D17), during a DMA grant too (R421). -/
def State.sampled (s : State) : State :=
  { s with inputs := s.inputs.tail, nmiPending := s.nmiPending || s.sample.nmiReq }

/-- What is done at a boundary (R402). -/
inductive Service where
  /-- Reset by `resetb` alone. -/
  | resetUser
  /-- Reset by `resetb` and `clearb`, as at power-on. -/
  | resetPowerOn
  /-- The bus is granted; the other master makes these accesses. -/
  | dma (accesses : List DmaAccess)
  /-- The non-maskable acknowledge. -/
  | nonMaskable (v : Byte)
  /-- The maskable acknowledge. -/
  | maskable (v : Byte)
  /-- An idle machine cycle of the Halt state. -/
  | idle
  /-- The instruction at PC is executed. -/
  | execute
  deriving DecidableEq, Repr

/-- Which of them: reset, then DMA, then the non-maskable, then the maskable request (R402, R403; log entry 11). -/
def State.service (s : State) : Service :=
  match s.sample.reset, s.sample.dma with
  | .user, _ => .resetUser
  | .powerOn, _ => .resetPowerOn
  | .inactive, some accesses => .dma accesses
  | .inactive, none =>
    if s.sampled.nmiPending then .nonMaskable s.sample.ivec
    else if s.sample.intReq && s.iff1 then .maskable s.sample.ivec
    else if s.halted then .idle
    else .execute

/-- The user reset (R41, R450, R451): PC, I, R, SP and the control state are initialised, nothing else changes
(log entries 5, 12 and 32). -/
def State.resetUser (s : State) : State :=
  { s with
    pc := 0x0000#16, iReg := Config.resetI, rReg := Config.resetR, sp := Config.resetSp
    iff1 := false, iff2 := false, im := .im0, halted := false, nmiPending := false, repeating := false }

/-- The power-on reset, `resetb` with `clearb` (R41, R452): the user reset, and every register it does not initialise gets the
value log entry 5 names. -/
def State.resetPowerOn (s : State) : State :=
  { s.resetUser with
    a := Config.powerOnByte, f := Config.powerOnByte, b := Config.powerOnByte, c := Config.powerOnByte
    d := Config.powerOnByte, e := Config.powerOnByte, h := Config.powerOnByte, l := Config.powerOnByte
    aAlt := Config.powerOnByte, fAlt := Config.powerOnByte, bAlt := Config.powerOnByte, cAlt := Config.powerOnByte
    dAlt := Config.powerOnByte, eAlt := Config.powerOnByte, hAlt := Config.powerOnByte, lAlt := Config.powerOnByte
    ix := Config.powerOnWord, iy := Config.powerOnWord }

/-- The memory after the other bus master's accesses, in order (R76): RAM keeps what it writes; reads, and I/O reads and writes,
change nothing that State holds (the model's choice, log entry 24). -/
def dmaAccesses (s : State) : Memory → List DmaAccess → Memory
  | m, [] => m
  | m, .memWrite a v :: rest => dmaAccesses s (if s.keeps a then memWrite m a.toNat v else m) rest
  | m, .memRead _ :: rest => dmaAccesses s m rest
  | m, .ioRead _ :: rest => dmaAccesses s m rest
  | m, .ioWrite _ _ :: rest => dmaAccesses s m rest

/-- A boundary at which the bus is granted (R76, R421): memory is the other master's, no CPU state changes, and in the Halt
state `halt_tran` stays active (R78). The platform lets the master make I/O accesses too, which are no transactions of the CPU's:
the model's choice, since R76 leaves it to the platform (log entry 24). -/
def State.grantBus (s : State) (accesses : List DmaAccess) : State :=
  let t := { s.emit .dmaGrant with mem := dmaAccesses s s.mem accesses }
  if s.halted then t.emit .halt else t

end Sys2Proof.Machine
end

