-- ==== Sys2Proof/Machine/Operands.lean ====
section
/-! DEFINITION. The operand forms and the operations over them that the instruction families share: each takes the state and
leaves PC alone, so that a meaning is one of them followed by `advance`. -/

namespace Sys2Proof.Machine

/-- The address of the operand `(IX+d)` (R98). -/
def State.eaIX (s : State) (d : Byte) : Word := s.ix + sext16 d

/-- The address of the operand `(IY+d)` (R98). -/
def State.eaIY (s : State) (d : Byte) : Word := s.iy + sext16 d

/-- The port of `IN A,(n)` and `OUT (n),A`: `{A, n}` (R35, R96). -/
def State.portAN (s : State) (n : Byte) : Word := word16 s.a n

/-- `A <- A + src + cin` with its flags (R191, R192). -/
def State.accAdd (s : State) (src : Byte) (cin : Bool) : State :=
  let o := add8 s.a src cin
  (s.setA o.r).writeFlags (arithFlags o false)

/-- `A <- A - src - cin` with its flags, N set (R193, R194, C8). -/
def State.accSub (s : State) (src : Byte) (cin : Bool) : State :=
  let o := sub8 s.a src cin
  (s.setA o.r).writeFlags (arithFlags o true)

/-- The flags of `A - src`; A is not written (R198). -/
def State.accCompare (s : State) (src : Byte) : State :=
  s.writeFlags (arithFlags (sub8 s.a src false) true)

/-- `A <- A & src` with its flags, H set (R195). -/
def State.accAnd (s : State) (src : Byte) : State :=
  let r := s.a &&& src
  (s.setA r).writeFlags (logicFlags r true)

/-- `A <- A ^ src` with its flags (R196). -/
def State.accXor (s : State) (src : Byte) : State :=
  let r := s.a ^^^ src
  (s.setA r).writeFlags (logicFlags r false)

/-- `A <- A | src` with its flags (R197). -/
def State.accOr (s : State) (src : Byte) : State :=
  let r := s.a ||| src
  (s.setA r).writeFlags (logicFlags r false)

/-- The flags after INC of `v`: C unaffected (R199). -/
def State.incFlags (s : State) (v : Byte) : Flags :=
  { arithFlags (add8 v 1#8 false) false with c := s.flags.c }

/-- The flags after DEC of `v`: C unaffected (R200). -/
def State.decFlags (s : State) (v : Byte) : Flags :=
  { arithFlags (sub8 v 1#8 false) true with c := s.flags.c }

/-- INC of a register (R199). -/
def State.incReg (s : State) (r : Reg8) : State :=
  (s.setR8 r (add8 (s.r8 r) 1#8 false).r).writeFlags (s.incFlags (s.r8 r))

/-- DEC of a register (R200). -/
def State.decReg (s : State) (r : Reg8) : State :=
  (s.setR8 r (sub8 (s.r8 r) 1#8 false).r).writeFlags (s.decFlags (s.r8 r))

/-- INC of the memory byte at an address: a read, then a write of the same address (R199). -/
def State.incMem (s : State) (a : Word) : State :=
  ((s.readDone a).writeByte a (add8 (s.readByte a) 1#8 false).r).writeFlags (s.incFlags (s.readByte a))

/-- DEC of the memory byte at an address (R200). -/
def State.decMem (s : State) (a : Word) : State :=
  ((s.readDone a).writeByte a (sub8 (s.readByte a) 1#8 false).r).writeFlags (s.decFlags (s.readByte a))

/-- A rotate or shift of a register (R250, 44_rotate_shift_bit.md section 3). -/
def State.shiftReg (s : State) (op : Byte → Bool → Shifted) (r : Reg8) : State :=
  let o := op (s.r8 r) s.flags.c
  (s.setR8 r o.r).writeFlags (shiftFlags o)

/-- A rotate or shift of the memory byte at an address (R250). -/
def State.shiftMem (s : State) (op : Byte → Bool → Shifted) (a : Word) : State :=
  let o := op (s.readByte a) s.flags.c
  ((s.readDone a).writeByte a o.r).writeFlags (shiftFlags o)

/-- A rotate of the accumulator: S, Z and P/V unaffected (R251 to R254). -/
def State.rotateAcc (s : State) (op : Byte → Bool → Shifted) : State :=
  let o := op s.a s.flags.c
  (s.setA o.r).writeFlags { s.flags with h := false, n := false, c := o.c }

/-- The byte with bit `b` set (R265). -/
def withBit (v : Byte) (b : Nat) : Byte := v ||| (1#8 <<< b)

/-- The byte with bit `b` reset (R266). -/
def withoutBit (v : Byte) (b : Nat) : Byte := v &&& ~~~(1#8 <<< b)

/-- SET and RES of the memory byte at an address: a read, then a write of the same address (R250, R265, R266). -/
def State.changeMem (s : State) (op : Byte → Byte) (a : Word) : State :=
  (s.readDone a).writeByte a (op (s.readByte a))

/-- The flags of BIT: Z is the complement of the bit; S, P/V and C unaffected (R264). -/
def State.bitTest (s : State) (v : Byte) (b : Nat) : State :=
  s.writeFlags { s.flags with z := !v.getLsbD b, h := true, n := false }

/-- The flags of `ADD HL,ss`, `ADD IX,xx`, `ADD IY,yy`: S, Z and P/V unaffected (R230, R231). -/
def State.addWordFlags (s : State) (o : Arith16) : Flags :=
  { s.flags with h := o.h, n := false, c := o.cy }

/-- The flags of a load of A from a special register: S and Z of the value, P/V from IFF2, C unaffected (R144, R145). -/
def State.specialFlags (s : State) (v : Byte) : Flags :=
  { s := v.msb, z := v == 0#8, h := false, pv := s.iff2, n := false, c := s.flags.c }

/-- The flags of RLD and RRD from A after, and of `IN r,(C)` from the input byte: C unaffected (R262, R341). -/
def State.digitFlags (s : State) (v : Byte) : Flags :=
  { s := v.msb, z := v == 0#8, h := false, pv := parityEven v, n := false, c := s.flags.c }

/-- `{hi[7:4] of a, low nibble}`: a byte from two nibbles. -/
def nibbles (hi lo : BitVec 4) : Byte := hi ++ lo

/-- Bits 7..4 of a byte. -/
def hiNibble (v : Byte) : BitVec 4 := v.extractLsb' 4 4

/-- Bits 3..0 of a byte. -/
def loNibble (v : Byte) : BitVec 4 := v.extractLsb' 0 4

/-- `EX (SP)` with a register holding `v`: both bytes read, then the low byte of `v` written at SP and the high byte at
SP + 1 (R176, R177). The word read is `topWord` of the state before. -/
def State.storeTop (s : State) (v : Word) : State := (s.readWordDone s.sp).writeWord s.sp v

/-- RLD: `{A, (HL)} <- {A[7:4], (HL), A[3:0]}` with its flags (R262). -/
def State.rotateDigitLeft (s : State) : State :=
  let v := s.readByte s.hl
  let r := nibbles (hiNibble s.a) (hiNibble v)
  (((s.readDone s.hl).setA r).writeByte s.hl (nibbles (loNibble v) (loNibble s.a))).writeFlags (s.digitFlags r)

/-- RRD: `{A, (HL)} <- {A[7:4], (HL)[3:0], A[3:0], (HL)[7:4]}` with its flags (R263). -/
def State.rotateDigitRight (s : State) : State :=
  let v := s.readByte s.hl
  let r := nibbles (hiNibble s.a) (loNibble v)
  (((s.readDone s.hl).setA r).writeByte s.hl (nibbles (loNibble s.a) (hiNibble v))).writeFlags (s.digitFlags r)

/-- The flags of DAA from A after: N unaffected, C and H as given (R201). -/
def State.adjustFlags (s : State) (r : Byte) (h c : Bool) : Flags :=
  { s := r.msb, z := r == 0#8, h := h, pv := parityEven r, n := s.flags.n, c := c }

/-- DAA (R201). Where a row of the table fits, A and C are the row's and H is a free value. Where none fits, A, C and H are
free values and S, Z and P/V follow A (D3; log entry 21). -/
def State.decimalAdjust (s : State) : State :=
  match daaRow s.a s.flags with
  | some row =>
    let r := s.a + row.add
    (s.setA r).drew.writeFlags (s.adjustFlags r ((Config.anyByte s.draws).getLsbD 0) row.cAfter)
  | none =>
    let r := Config.anyByte s.draws
    let u := Config.anyByte (s.draws + 1)
    (s.setA r).drew.drew.writeFlags (s.adjustFlags r (u.getLsbD 0) (u.getLsbD 1))

/-- The target of a relative jump: `pc0 + e` (R99). -/
def State.relative (s : State) (e : Int) : Word := s.pc + BitVec.ofInt 16 e

/-- One iteration of LDI (`delta` 1) or LDD (`delta` -1): R291, R293. -/
def State.blockLoad (s : State) (delta : Word) : State :=
  let t := ((((s.readDone s.hl).writeByte s.de (s.readByte s.hl)).setBC (s.bc - 1)).setDE (s.de + delta)).setHL (s.hl + delta)
  t.writeFlags { s.flags with h := false, pv := (s.bc - 1) != 0#16, n := false }

/-- One iteration of CPI (`delta` 1) or CPD (`delta` -1): the compare's S, Z and H; P/V from BC; C unaffected (R295,
R297). -/
def State.blockCompare (s : State) (delta : Word) : State :=
  let o := sub8 s.a (s.readByte s.hl) false
  (((s.readDone s.hl).setHL (s.hl + delta)).setBC (s.bc - 1)).writeFlags
    { arithFlags o true with pv := (s.bc - 1) != 0#16, c := s.flags.c }

/-- The flags of the block I/O instructions: Z from B after the decrement, N set, the others unaffected
(47_io.md section 2, C11). -/
def State.blockIoFlags (s : State) : Flags := { s.flags with z := (s.b - 1) == 0#8, n := true }

/-- One iteration of INI (`delta` 1) or IND (`delta` -1): the port is BC before the decrement (R344, R346, D19). -/
def State.blockIn (s : State) (delta : Word) : State :=
  let t := (((s.ioReadDone s.bc).writeByte s.hl (s.ioByte s.bc)).setB (s.b - 1)).setHL (s.hl + delta)
  t.writeFlags s.blockIoFlags

/-- One iteration of OUTI (`delta` 1) or OUTD (`delta` -1): the port is BC before the decrement (R348, R350, D19). -/
def State.blockOut (s : State) (delta : Word) : State :=
  let t := (((s.readDone s.hl).ioWrite s.bc (s.readByte s.hl)).setB (s.b - 1)).setHL (s.hl + delta)
  t.writeFlags s.blockIoFlags

/-- The end of an iteration of a repeating block instruction: PC stays at the instruction while the repeat condition
holds, tested on the state after the iteration (R290, D28). -/
def repeatWhile (again : Bool) (t : State) : Result :=
  .next (if again then t.setRepeating true else t.advance 2)

end Sys2Proof.Machine
end

