-- ==== Sys2Proof/Machine/Alu16.lean ====
section
/-! DEFINITION. 16-bit arithmetic (43_alu16.md). One definition per instruction. -/

namespace Sys2Proof.Machine

/-- `ADD HL,ss` (R230). -/
def execAddHlSs (ss : RegDD) (s : State) : Result :=
  .next (((s.setHL (add16 s.hl (s.rdd ss) false).r).writeFlags (s.addWordFlags (add16 s.hl (s.rdd ss) false))).advance 1)

/-- `ADD IX,xx` (R231). -/
def execAddIxXx (xx : RegXX) (s : State) : Result :=
  .next (((s.setIX (add16 s.ix (s.rxx xx) false).r).writeFlags (s.addWordFlags (add16 s.ix (s.rxx xx) false))).advance 2)

/-- `ADD IY,yy` (R231). -/
def execAddIyYy (yy : RegYY) (s : State) : Result :=
  .next (((s.setIY (add16 s.iy (s.ryy yy) false).r).writeFlags (s.addWordFlags (add16 s.iy (s.ryy yy) false))).advance 2)

/-- `ADC HL,ss` (R232). -/
def execAdcHlSs (ss : RegDD) (s : State) : Result :=
  .next (((s.setHL (add16 s.hl (s.rdd ss) s.flags.c).r).writeFlags (arithFlags16 (add16 s.hl (s.rdd ss) s.flags.c) false)).advance 2)

/-- `SBC HL,ss` (R233). -/
def execSbcHlSs (ss : RegDD) (s : State) : Result :=
  .next (((s.setHL (sub16 s.hl (s.rdd ss) s.flags.c).r).writeFlags (arithFlags16 (sub16 s.hl (s.rdd ss) s.flags.c) true)).advance 2)

/-- `INC ss` (R234). -/
def execIncSs (dd : RegDD) (s : State) : Result := .next ((s.setRdd dd (s.rdd dd + 1)).advance 1)

/-- `INC IX` (R235). -/
def execIncIx (s : State) : Result := .next ((s.setIX (s.ix + 1)).advance 2)

/-- `INC IY` (R235). -/
def execIncIy (s : State) : Result := .next ((s.setIY (s.iy + 1)).advance 2)

/-- `DEC ss` (R236). -/
def execDecSs (dd : RegDD) (s : State) : Result := .next ((s.setRdd dd (s.rdd dd - 1)).advance 1)

/-- `DEC IX` (R237). -/
def execDecIx (s : State) : Result := .next ((s.setIX (s.ix - 1)).advance 2)

/-- `DEC IY` (R237). -/
def execDecIy (s : State) : Result := .next ((s.setIY (s.iy - 1)).advance 2)

end Sys2Proof.Machine
end

