-- ==== Sys2Proof/Machine/Alu8.lean ====
section
/-! DEFINITION. 8-bit arithmetic and logic (42_alu8.md). One definition per instruction. -/

namespace Sys2Proof.Machine

/-- `ADD A,r` (R191). -/
def execAddAR (r : Reg8) (s : State) : Result := .next ((s.accAdd (s.r8 r) false).advance 1)

/-- `ADD A,(HL)` (R191). -/
def execAddAHlInd (s : State) : Result := .next (((s.readDone s.hl).accAdd (s.readByte s.hl) false).advance 1)

/-- `ADD A,n` (R191). -/
def execAddAN (n : Byte) (s : State) : Result := .next ((s.accAdd n false).advance 2)

/-- `ADD A,(IX+d)` (R191). -/
def execAddAIxInd (d : Byte) (s : State) : Result :=
  .next (((s.readDone (s.eaIX d)).accAdd (s.readByte (s.eaIX d)) false).advance 3)

/-- `ADD A,(IY+d)` (R191). -/
def execAddAIyInd (d : Byte) (s : State) : Result :=
  .next (((s.readDone (s.eaIY d)).accAdd (s.readByte (s.eaIY d)) false).advance 3)

/-- `ADC A,r` (R192). -/
def execAdcAR (r : Reg8) (s : State) : Result := .next ((s.accAdd (s.r8 r) s.flags.c).advance 1)

/-- `ADC A,(HL)` (R192). -/
def execAdcAHlInd (s : State) : Result := .next (((s.readDone s.hl).accAdd (s.readByte s.hl) s.flags.c).advance 1)

/-- `ADC A,n` (R192). -/
def execAdcAN (n : Byte) (s : State) : Result := .next ((s.accAdd n s.flags.c).advance 2)

/-- `ADC A,(IX+d)` (R192). -/
def execAdcAIxInd (d : Byte) (s : State) : Result :=
  .next (((s.readDone (s.eaIX d)).accAdd (s.readByte (s.eaIX d)) s.flags.c).advance 3)

/-- `ADC A,(IY+d)` (R192). -/
def execAdcAIyInd (d : Byte) (s : State) : Result :=
  .next (((s.readDone (s.eaIY d)).accAdd (s.readByte (s.eaIY d)) s.flags.c).advance 3)

/-- `SUB A,r` (R193). -/
def execSubAR (r : Reg8) (s : State) : Result := .next ((s.accSub (s.r8 r) false).advance 1)

/-- `SUB A,(HL)` (R193). -/
def execSubAHlInd (s : State) : Result := .next (((s.readDone s.hl).accSub (s.readByte s.hl) false).advance 1)

/-- `SUB A,n` (R193). -/
def execSubAN (n : Byte) (s : State) : Result := .next ((s.accSub n false).advance 2)

/-- `SUB A,(IX+d)` (R193). -/
def execSubAIxInd (d : Byte) (s : State) : Result :=
  .next (((s.readDone (s.eaIX d)).accSub (s.readByte (s.eaIX d)) false).advance 3)

/-- `SUB A,(IY+d)` (R193). -/
def execSubAIyInd (d : Byte) (s : State) : Result :=
  .next (((s.readDone (s.eaIY d)).accSub (s.readByte (s.eaIY d)) false).advance 3)

/-- `SBC A,r` (R194). -/
def execSbcAR (r : Reg8) (s : State) : Result := .next ((s.accSub (s.r8 r) s.flags.c).advance 1)

/-- `SBC A,(HL)` (R194). -/
def execSbcAHlInd (s : State) : Result := .next (((s.readDone s.hl).accSub (s.readByte s.hl) s.flags.c).advance 1)

/-- `SBC A,n` (R194). -/
def execSbcAN (n : Byte) (s : State) : Result := .next ((s.accSub n s.flags.c).advance 2)

/-- `SBC A,(IX+d)` (R194). -/
def execSbcAIxInd (d : Byte) (s : State) : Result :=
  .next (((s.readDone (s.eaIX d)).accSub (s.readByte (s.eaIX d)) s.flags.c).advance 3)

/-- `SBC A,(IY+d)` (R194). -/
def execSbcAIyInd (d : Byte) (s : State) : Result :=
  .next (((s.readDone (s.eaIY d)).accSub (s.readByte (s.eaIY d)) s.flags.c).advance 3)

/-- `AND A,r` (R195). -/
def execAndAR (r : Reg8) (s : State) : Result := .next ((s.accAnd (s.r8 r)).advance 1)

/-- `AND A,(HL)` (R195). -/
def execAndAHlInd (s : State) : Result := .next (((s.readDone s.hl).accAnd (s.readByte s.hl)).advance 1)

/-- `AND A,n` (R195). -/
def execAndAN (n : Byte) (s : State) : Result := .next ((s.accAnd n).advance 2)

/-- `AND A,(IX+d)` (R195). -/
def execAndAIxInd (d : Byte) (s : State) : Result :=
  .next (((s.readDone (s.eaIX d)).accAnd (s.readByte (s.eaIX d))).advance 3)

/-- `AND A,(IY+d)` (R195). -/
def execAndAIyInd (d : Byte) (s : State) : Result :=
  .next (((s.readDone (s.eaIY d)).accAnd (s.readByte (s.eaIY d))).advance 3)

/-- `XOR A,r` (R196). -/
def execXorAR (r : Reg8) (s : State) : Result := .next ((s.accXor (s.r8 r)).advance 1)

/-- `XOR A,(HL)` (R196). -/
def execXorAHlInd (s : State) : Result := .next (((s.readDone s.hl).accXor (s.readByte s.hl)).advance 1)

/-- `XOR A,n` (R196). -/
def execXorAN (n : Byte) (s : State) : Result := .next ((s.accXor n).advance 2)

/-- `XOR A,(IX+d)` (R196). -/
def execXorAIxInd (d : Byte) (s : State) : Result :=
  .next (((s.readDone (s.eaIX d)).accXor (s.readByte (s.eaIX d))).advance 3)

/-- `XOR A,(IY+d)` (R196). -/
def execXorAIyInd (d : Byte) (s : State) : Result :=
  .next (((s.readDone (s.eaIY d)).accXor (s.readByte (s.eaIY d))).advance 3)

/-- `OR A,r` (R197). -/
def execOrAR (r : Reg8) (s : State) : Result := .next ((s.accOr (s.r8 r)).advance 1)

/-- `OR A,(HL)` (R197). -/
def execOrAHlInd (s : State) : Result := .next (((s.readDone s.hl).accOr (s.readByte s.hl)).advance 1)

/-- `OR A,n` (R197). -/
def execOrAN (n : Byte) (s : State) : Result := .next ((s.accOr n).advance 2)

/-- `OR A,(IX+d)` (R197). -/
def execOrAIxInd (d : Byte) (s : State) : Result :=
  .next (((s.readDone (s.eaIX d)).accOr (s.readByte (s.eaIX d))).advance 3)

/-- `OR A,(IY+d)` (R197). -/
def execOrAIyInd (d : Byte) (s : State) : Result :=
  .next (((s.readDone (s.eaIY d)).accOr (s.readByte (s.eaIY d))).advance 3)

/-- `CP A,r` (R198). -/
def execCpAR (r : Reg8) (s : State) : Result := .next ((s.accCompare (s.r8 r)).advance 1)

/-- `CP A,(HL)` (R198). -/
def execCpAHlInd (s : State) : Result := .next (((s.readDone s.hl).accCompare (s.readByte s.hl)).advance 1)

/-- `CP A,n` (R198). -/
def execCpAN (n : Byte) (s : State) : Result := .next ((s.accCompare n).advance 2)

/-- `CP A,(IX+d)` (R198). -/
def execCpAIxInd (d : Byte) (s : State) : Result :=
  .next (((s.readDone (s.eaIX d)).accCompare (s.readByte (s.eaIX d))).advance 3)

/-- `CP A,(IY+d)` (R198). -/
def execCpAIyInd (d : Byte) (s : State) : Result :=
  .next (((s.readDone (s.eaIY d)).accCompare (s.readByte (s.eaIY d))).advance 3)

/-- `INC r` (R199). -/
def execIncR (r : Reg8) (s : State) : Result := .next ((s.incReg r).advance 1)

/-- `INC (HL)` (R199). -/
def execIncHlInd (s : State) : Result := .next ((s.incMem s.hl).advance 1)

/-- `INC (IX+d)` (R199). -/
def execIncIxInd (d : Byte) (s : State) : Result := .next ((s.incMem (s.eaIX d)).advance 3)

/-- `INC (IY+d)` (R199). -/
def execIncIyInd (d : Byte) (s : State) : Result := .next ((s.incMem (s.eaIY d)).advance 3)

/-- `DEC r` (R200). -/
def execDecR (r : Reg8) (s : State) : Result := .next ((s.decReg r).advance 1)

/-- `DEC (HL)` (R200). -/
def execDecHlInd (s : State) : Result := .next ((s.decMem s.hl).advance 1)

/-- `DEC (IX+d)` (R200). -/
def execDecIxInd (d : Byte) (s : State) : Result := .next ((s.decMem (s.eaIX d)).advance 3)

/-- `DEC (IY+d)` (R200). -/
def execDecIyInd (d : Byte) (s : State) : Result := .next ((s.decMem (s.eaIY d)).advance 3)

/-- `DAA` (R201). -/
def execDaa (s : State) : Result := .next (s.decimalAdjust.advance 1)

/-- `CPL` (R202). -/
def execCpl (s : State) : Result :=
  .next (((s.setA (~~~s.a)).writeFlags { s.flags with h := true, n := true }).advance 1)

/-- `NEG` (R203): P/V is set from 0x80, C from any A but 0. -/
def execNeg (s : State) : Result :=
  .next (((s.setA (sub8 0#8 s.a false).r).writeFlags (arithFlags (sub8 0#8 s.a false) true)).advance 2)

/-- `CCF` (R204). -/
def execCcf (s : State) : Result :=
  .next ((s.writeFlags { s.flags with h := s.flags.c, n := false, c := !s.flags.c }).advance 1)

/-- `SCF` (R205). -/
def execScf (s : State) : Result := .next ((s.writeFlags { s.flags with h := false, n := false, c := true }).advance 1)

end Sys2Proof.Machine
end

