-- ==== Sys2Proof/Machine/Block.lean ====
section
/-! DEFINITION. Block transfer and block search (45_block.md). One definition per instruction. -/

namespace Sys2Proof.Machine

/-- `LDI` (R291). -/
def execLdi (s : State) : Result := .next ((s.blockLoad 1).advance 2)

/-- `LDIR` (R292): one iteration, repeated while BC is not 0. -/
def execLdir (s : State) : Result := repeatWhile ((s.blockLoad 1).bc != 0#16) (s.blockLoad 1)

/-- `LDD` (R293). -/
def execLdd (s : State) : Result := .next ((s.blockLoad (-1)).advance 2)

/-- `LDDR` (R294): one iteration, repeated while BC is not 0. -/
def execLddr (s : State) : Result := repeatWhile ((s.blockLoad (-1)).bc != 0#16) (s.blockLoad (-1))

/-- `CPI` (R295). -/
def execCpi (s : State) : Result := .next ((s.blockCompare 1).advance 2)

/-- `CPIR` (R296): one iteration, repeated while BC is not 0 and the compare found no match. -/
def execCpir (s : State) : Result :=
  repeatWhile ((s.blockCompare 1).bc != 0#16 && !(s.blockCompare 1).flags.z) (s.blockCompare 1)

/-- `CPD` (R297). -/
def execCpd (s : State) : Result := .next ((s.blockCompare (-1)).advance 2)

/-- `CPDR` (R298): one iteration, repeated while BC is not 0 and the compare found no match. -/
def execCpdr (s : State) : Result :=
  repeatWhile ((s.blockCompare (-1)).bc != 0#16 && !(s.blockCompare (-1)).flags.z) (s.blockCompare (-1))

end Sys2Proof.Machine
end

