-- ==== Sys2Proof/Machine/Control.lean ====
section
/-! DEFINITION. Control transfer (46_control_transfer.md). No instruction here writes a flag. One definition per instruction. -/

namespace Sys2Proof.Machine

/-- `JP mn` (R310). -/
def execJpMn (mn : Word) (s : State) : Result := .next (s.setPC mn)

/-- `JP cc,mn` (R311). -/
def execJpCcMn (cc : Cond) (mn : Word) (s : State) : Result :=
  .next (if condHolds s.flags cc then s.setPC mn else s.advance 3)

/-- `JP (HL)` (R312): memory at HL is not read. -/
def execJpHl (s : State) : Result := .next (s.setPC s.hl)

/-- `JP (IX)` (R313). -/
def execJpIx (s : State) : Result := .next (s.setPC s.ix)

/-- `JP (IY)` (R313). -/
def execJpIy (s : State) : Result := .next (s.setPC s.iy)

/-- `JR e` (R314). -/
def execJr (e : Int) (s : State) : Result := .next (s.setPC (s.relative e))

/-- `JR cc,e` (R315). -/
def execJrCc (cc : CC) (e : Int) (s : State) : Result :=
  .next (if ccHolds s.flags cc then s.setPC (s.relative e) else s.advance 2)

/-- `DJNZ e` (R316): B is decremented before the test. -/
def execDjnz (e : Int) (s : State) : Result :=
  let t := s.setB (s.b - 1)
  .next (if t.b != 0#8 then t.setPC (s.relative e) else t.advance 2)

/-- `CALL mn` (R317): the address of the next instruction is pushed. -/
def execCallMn (mn : Word) (s : State) : Result := .next ((s.push16 (s.pc + 3)).setPC mn)

/-- `CALL cc,mn` (R318): not taken it writes nothing. -/
def execCallCcMn (cc : Cond) (mn : Word) (s : State) : Result :=
  .next (if condHolds s.flags cc then (s.push16 (s.pc + 3)).setPC mn else s.advance 3)

/-- `RET` (R319). -/
def execRet (s : State) : Result := .next s.returnFromStack

/-- `RET cc` (R320). -/
def execRetCc (cc : Cond) (s : State) : Result :=
  .next (if condHolds s.flags cc then s.returnFromStack else s.advance 1)

/-- `RETI` (R321): the RETI notification is emitted; IFF1 and IFF2 are unchanged (log entry 29). -/
def execReti (s : State) : Result := .next (s.returnFromStack.emit .reti)

/-- `RETN` (R322): IFF1 gets IFF2 (C10). -/
def execRetn (s : State) : Result := .next (s.returnFromStack.setIff s.iff2 s.iff2)

/-- `RST v` (R323): the address of the next instruction is pushed. -/
def execRst (v : Byte) (s : State) : Result := .next ((s.push16 (s.pc + 1)).setPC (word16 0#8 v))

end Sys2Proof.Machine
end

