-- ==== Sys2Proof/Machine/CpuControl.lean ====
section
/-! DEFINITION. CPU control (48_cpu_control.md). One definition per instruction. -/

namespace Sys2Proof.Machine

/-- `NOP` (R370). -/
def execNop (s : State) : Result := .next (s.advance 1)

/-- `HALT` (R371): PC is already at the next instruction in the Halt state; the byte there is read and discarded (R68). -/
def execHalt (s : State) : Result := .next (((s.readDone (s.pc + 1)).setHalted true).advance 1)

/-- `DI` (R372). -/
def execDi (s : State) : Result := .next ((s.setIff false false).advance 1)

/-- `EI` (R373): at once: there is no delay (log entry 29). -/
def execEi (s : State) : Result := .next ((s.setIff true true).advance 1)

/-- `IM 0` (R374). -/
def execIm0 (s : State) : Result := .next ((s.setIM .im0).advance 2)

/-- `IM 1` (R375). -/
def execIm1 (s : State) : Result := .next ((s.setIM .im1).advance 2)

/-- `IM 2` (R376). -/
def execIm2 (s : State) : Result := .next ((s.setIM .im2).advance 2)

end Sys2Proof.Machine
end

