-- ==== Sys2Proof/Machine/Io.lean ====
section
/-! DEFINITION. Input and output (47_io.md). One definition per instruction. -/

namespace Sys2Proof.Machine

/-- `IN A,(n)` (R340): no flag is written. -/
def execInAN (n : Byte) (s : State) : Result :=
  .next (((s.ioReadDone (s.portAN n)).setA (s.ioByte (s.portAN n))).advance 2)

/-- `IN r,(C)` (R341). -/
def execInRC (r : Reg8) (s : State) : Result :=
  .next ((((s.ioReadDone s.bc).setR8 r (s.ioByte s.bc)).writeFlags (s.digitFlags (s.ioByte s.bc))).advance 2)

/-- `OUT (n),A` (R342). -/
def execOutNA (n : Byte) (s : State) : Result := .next ((s.ioWrite (s.portAN n) s.a).advance 2)

/-- `OUT (C),r` (R343). -/
def execOutCR (r : Reg8) (s : State) : Result := .next ((s.ioWrite s.bc (s.r8 r)).advance 2)

/-- `INI` (R344). -/
def execIni (s : State) : Result := .next ((s.blockIn 1).advance 2)

/-- `INIR` (R345): one iteration, repeated while B is not 0. -/
def execInir (s : State) : Result := repeatWhile ((s.blockIn 1).b != 0#8) (s.blockIn 1)

/-- `IND` (R346). -/
def execInd (s : State) : Result := .next ((s.blockIn (-1)).advance 2)

/-- `INDR` (R347): one iteration, repeated while B is not 0. -/
def execIndr (s : State) : Result := repeatWhile ((s.blockIn (-1)).b != 0#8) (s.blockIn (-1))

/-- `OUTI` (R348). -/
def execOuti (s : State) : Result := .next ((s.blockOut 1).advance 2)

/-- `OTIR` (R349): one iteration, repeated while B is not 0. -/
def execOtir (s : State) : Result := repeatWhile ((s.blockOut 1).b != 0#8) (s.blockOut 1)

/-- `OUTD` (R350). -/
def execOutd (s : State) : Result := .next ((s.blockOut (-1)).advance 2)

/-- `OTDR` (R351): one iteration, repeated while B is not 0. -/
def execOtdr (s : State) : Result := repeatWhile ((s.blockOut (-1)).b != 0#8) (s.blockOut (-1))

end Sys2Proof.Machine
end

