-- ==== Sys2Proof/Machine/Load16.lean ====
section
/-! DEFINITION. The 16-bit loads, the stack and the exchanges (41_load16_stack_exchange.md). One definition per instruction. -/

namespace Sys2Proof.Machine

/-- `LD dd,mn` (R160). -/
def execLdDdMn (dd : RegDD) (mn : Word) (s : State) : Result := .next ((s.setRdd dd mn).advance 3)

/-- `LD IX,mn` (R161). -/
def execLdIxMn (mn : Word) (s : State) : Result := .next ((s.setIX mn).advance 4)

/-- `LD IY,mn` (R161). -/
def execLdIyMn (mn : Word) (s : State) : Result := .next ((s.setIY mn).advance 4)

/-- `LD HL,(mn)` (R162). -/
def execLdHlMnInd (mn : Word) (s : State) : Result := .next (((s.readWordDone mn).setHL (s.readWord mn)).advance 3)

/-- `LD dd,(mn)` (R163). -/
def execLdDdMnInd (dd : RegDD) (mn : Word) (s : State) : Result :=
  .next (((s.readWordDone mn).setRdd dd (s.readWord mn)).advance 4)

/-- `LD IX,(mn)` (R164). -/
def execLdIxMnInd (mn : Word) (s : State) : Result := .next (((s.readWordDone mn).setIX (s.readWord mn)).advance 4)

/-- `LD IY,(mn)` (R164). -/
def execLdIyMnInd (mn : Word) (s : State) : Result := .next (((s.readWordDone mn).setIY (s.readWord mn)).advance 4)

/-- `LD (mn),HL` (R165). -/
def execLdMnIndHl (mn : Word) (s : State) : Result := .next ((s.writeWord mn s.hl).advance 3)

/-- `LD (mn),ss` (R166). -/
def execLdMnIndSs (mn : Word) (ss : RegDD) (s : State) : Result := .next ((s.writeWord mn (s.rdd ss)).advance 4)

/-- `LD (mn),IX` (R167). -/
def execLdMnIndIx (mn : Word) (s : State) : Result := .next ((s.writeWord mn s.ix).advance 4)

/-- `LD (mn),IY` (R167). -/
def execLdMnIndIy (mn : Word) (s : State) : Result := .next ((s.writeWord mn s.iy).advance 4)

/-- `LD SP,HL` (R168). -/
def execLdSpHl (s : State) : Result := .next ((s.setSP s.hl).advance 1)

/-- `PUSH tt` (R169): AF with all eight bits of F. -/
def execPushTt (tt : RegTT) (s : State) : Result := .next ((s.push16 (s.rtt tt)).advance 1)

/-- `PUSH IX` (R169). -/
def execPushIx (s : State) : Result := .next ((s.push16 s.ix).advance 2)

/-- `PUSH IY` (R169). -/
def execPushIy (s : State) : Result := .next ((s.push16 s.iy).advance 2)

/-- `POP tt` (R170): into AF it replaces A and all eight bits of F. -/
def execPopTt (tt : RegTT) (s : State) : Result := .next ((s.dropWord.setRtt tt s.topWord).advance 1)

/-- `POP IX` (R170). -/
def execPopIx (s : State) : Result := .next ((s.dropWord.setIX s.topWord).advance 2)

/-- `POP IY` (R170). -/
def execPopIy (s : State) : Result := .next ((s.dropWord.setIY s.topWord).advance 2)

/-- `LD SP,IX` (R171). -/
def execLdSpIx (s : State) : Result := .next ((s.setSP s.ix).advance 2)

/-- `LD SP,IY` (R171). -/
def execLdSpIy (s : State) : Result := .next ((s.setSP s.iy).advance 2)

/-- `EX AF,AF'` (R173). -/
def execExAfAf (s : State) : Result := .next (s.swapAF.advance 1)

/-- `EXX` (R174). -/
def execExx (s : State) : Result := .next (s.swapBank.advance 1)

/-- `EX DE,HL` (R175). -/
def execExDeHl (s : State) : Result := .next (((s.setDE s.hl).setHL s.de).advance 1)

/-- `EX (SP),HL` (R176): the word on top is read before the stores. -/
def execExSpIndHl (s : State) : Result := .next (((s.storeTop s.hl).setHL s.topWord).advance 1)

/-- `EX (SP),IX` (R177): the word on top is read before the stores. -/
def execExSpIndIx (s : State) : Result := .next (((s.storeTop s.ix).setIX s.topWord).advance 2)

/-- `EX (SP),IY` (R177): the word on top is read before the stores. -/
def execExSpIndIy (s : State) : Result := .next (((s.storeTop s.iy).setIY s.topWord).advance 2)

end Sys2Proof.Machine
end

