-- ==== Sys2Proof/Machine/Load8.lean ====
section
/-! DEFINITION. The 8-bit loads (40_load8.md). One definition per instruction. -/

namespace Sys2Proof.Machine

/-- `LD r,r'` (R130). -/
def execLdRR (rd : Reg8) (rs : Reg8) (s : State) : Result := .next ((s.setR8 rd (s.r8 rs)).advance 1)

/-- `LD r,n` (R131). -/
def execLdRN (r : Reg8) (n : Byte) (s : State) : Result := .next ((s.setR8 r n).advance 2)

/-- `LD r,(HL)` (R132). -/
def execLdRHlInd (r : Reg8) (s : State) : Result := .next (((s.readDone s.hl).setR8 r (s.readByte s.hl)).advance 1)

/-- `LD r,(IX+d)` (R133). -/
def execLdRIxInd (r : Reg8) (d : Byte) (s : State) : Result :=
  .next (((s.readDone (s.eaIX d)).setR8 r (s.readByte (s.eaIX d))).advance 3)

/-- `LD r,(IY+d)` (R133). -/
def execLdRIyInd (r : Reg8) (d : Byte) (s : State) : Result :=
  .next (((s.readDone (s.eaIY d)).setR8 r (s.readByte (s.eaIY d))).advance 3)

/-- `LD (HL),r` (R134). -/
def execLdHlIndR (r : Reg8) (s : State) : Result := .next ((s.writeByte s.hl (s.r8 r)).advance 1)

/-- `LD (IX+d),r` (R135). -/
def execLdIxIndR (d : Byte) (r : Reg8) (s : State) : Result := .next ((s.writeByte (s.eaIX d) (s.r8 r)).advance 3)

/-- `LD (IY+d),r` (R135). -/
def execLdIyIndR (d : Byte) (r : Reg8) (s : State) : Result := .next ((s.writeByte (s.eaIY d) (s.r8 r)).advance 3)

/-- `LD (HL),n` (R136). -/
def execLdHlIndN (n : Byte) (s : State) : Result := .next ((s.writeByte s.hl n).advance 2)

/-- `LD (IX+d),n` (R137). -/
def execLdIxIndN (d : Byte) (n : Byte) (s : State) : Result := .next ((s.writeByte (s.eaIX d) n).advance 4)

/-- `LD (IY+d),n` (R137). -/
def execLdIyIndN (d : Byte) (n : Byte) (s : State) : Result := .next ((s.writeByte (s.eaIY d) n).advance 4)

/-- `LD A,(BC)` (R138). -/
def execLdABcInd (s : State) : Result := .next (((s.readDone s.bc).setA (s.readByte s.bc)).advance 1)

/-- `LD A,(DE)` (R139). -/
def execLdADeInd (s : State) : Result := .next (((s.readDone s.de).setA (s.readByte s.de)).advance 1)

/-- `LD A,(mn)` (R140). -/
def execLdAMnInd (mn : Word) (s : State) : Result := .next (((s.readDone mn).setA (s.readByte mn)).advance 3)

/-- `LD (BC),A` (R141). -/
def execLdBcIndA (s : State) : Result := .next ((s.writeByte s.bc s.a).advance 1)

/-- `LD (DE),A` (R142). -/
def execLdDeIndA (s : State) : Result := .next ((s.writeByte s.de s.a).advance 1)

/-- `LD (mn),A` (R143). -/
def execLdMnIndA (mn : Word) (s : State) : Result := .next ((s.writeByte mn s.a).advance 3)

/-- `LD A,I` (R144): S and Z of I, P/V from IFF2. -/
def execLdAIReg (s : State) : Result := .next (((s.setA s.iReg).writeFlags (s.specialFlags s.iReg)).advance 2)

/-- `LD A,R` (R145): S and Z of R, P/V from IFF2. -/
def execLdARReg (s : State) : Result := .next (((s.setA s.rReg).writeFlags (s.specialFlags s.rReg)).advance 2)

/-- `LD I,A` (R146). -/
def execLdIRegA (s : State) : Result := .next ((s.setI s.a).advance 2)

/-- `LD R,A` (R147): all eight bits. -/
def execLdRRegA (s : State) : Result := .next ((s.setR s.a).advance 2)

end Sys2Proof.Machine
end

