-- ==== Sys2Proof/Machine/RotateShiftBit.lean ====
section
/-! DEFINITION. Rotates, shifts, digit rotates and bit operations (44_rotate_shift_bit.md). One definition per instruction. -/

namespace Sys2Proof.Machine

/-- `RLCA` (R251). -/
def execRlca (s : State) : Result := .next ((s.rotateAcc rlc).advance 1)

/-- `RLA` (R252). -/
def execRla (s : State) : Result := .next ((s.rotateAcc rl).advance 1)

/-- `RRCA` (R253). -/
def execRrca (s : State) : Result := .next ((s.rotateAcc rrc).advance 1)

/-- `RRA` (R254). -/
def execRra (s : State) : Result := .next ((s.rotateAcc rr).advance 1)

/-- `RLC r` (R255). -/
def execRlcR (r : Reg8) (s : State) : Result := .next ((s.shiftReg rlc r).advance 2)

/-- `RLC (HL)` (R255). -/
def execRlcHlInd (s : State) : Result := .next ((s.shiftMem rlc s.hl).advance 2)

/-- `RLC (IX+d)` (R255). -/
def execRlcIxInd (d : Byte) (s : State) : Result := .next ((s.shiftMem rlc (s.eaIX d)).advance 4)

/-- `RLC (IY+d)` (R255). -/
def execRlcIyInd (d : Byte) (s : State) : Result := .next ((s.shiftMem rlc (s.eaIY d)).advance 4)

/-- `RL r` (R256). -/
def execRlR (r : Reg8) (s : State) : Result := .next ((s.shiftReg rl r).advance 2)

/-- `RL (HL)` (R256). -/
def execRlHlInd (s : State) : Result := .next ((s.shiftMem rl s.hl).advance 2)

/-- `RL (IX+d)` (R256). -/
def execRlIxInd (d : Byte) (s : State) : Result := .next ((s.shiftMem rl (s.eaIX d)).advance 4)

/-- `RL (IY+d)` (R256). -/
def execRlIyInd (d : Byte) (s : State) : Result := .next ((s.shiftMem rl (s.eaIY d)).advance 4)

/-- `RRC r` (R257). -/
def execRrcR (r : Reg8) (s : State) : Result := .next ((s.shiftReg rrc r).advance 2)

/-- `RRC (HL)` (R257). -/
def execRrcHlInd (s : State) : Result := .next ((s.shiftMem rrc s.hl).advance 2)

/-- `RRC (IX+d)` (R257). -/
def execRrcIxInd (d : Byte) (s : State) : Result := .next ((s.shiftMem rrc (s.eaIX d)).advance 4)

/-- `RRC (IY+d)` (R257). -/
def execRrcIyInd (d : Byte) (s : State) : Result := .next ((s.shiftMem rrc (s.eaIY d)).advance 4)

/-- `RR r` (R258). -/
def execRrR (r : Reg8) (s : State) : Result := .next ((s.shiftReg rr r).advance 2)

/-- `RR (HL)` (R258). -/
def execRrHlInd (s : State) : Result := .next ((s.shiftMem rr s.hl).advance 2)

/-- `RR (IX+d)` (R258). -/
def execRrIxInd (d : Byte) (s : State) : Result := .next ((s.shiftMem rr (s.eaIX d)).advance 4)

/-- `RR (IY+d)` (R258). -/
def execRrIyInd (d : Byte) (s : State) : Result := .next ((s.shiftMem rr (s.eaIY d)).advance 4)

/-- `SLA r` (R259). -/
def execSlaR (r : Reg8) (s : State) : Result := .next ((s.shiftReg sla r).advance 2)

/-- `SLA (HL)` (R259). -/
def execSlaHlInd (s : State) : Result := .next ((s.shiftMem sla s.hl).advance 2)

/-- `SLA (IX+d)` (R259). -/
def execSlaIxInd (d : Byte) (s : State) : Result := .next ((s.shiftMem sla (s.eaIX d)).advance 4)

/-- `SLA (IY+d)` (R259). -/
def execSlaIyInd (d : Byte) (s : State) : Result := .next ((s.shiftMem sla (s.eaIY d)).advance 4)

/-- `SRA r` (R260). -/
def execSraR (r : Reg8) (s : State) : Result := .next ((s.shiftReg sra r).advance 2)

/-- `SRA (HL)` (R260). -/
def execSraHlInd (s : State) : Result := .next ((s.shiftMem sra s.hl).advance 2)

/-- `SRA (IX+d)` (R260). -/
def execSraIxInd (d : Byte) (s : State) : Result := .next ((s.shiftMem sra (s.eaIX d)).advance 4)

/-- `SRA (IY+d)` (R260). -/
def execSraIyInd (d : Byte) (s : State) : Result := .next ((s.shiftMem sra (s.eaIY d)).advance 4)

/-- `SRL r` (R261). -/
def execSrlR (r : Reg8) (s : State) : Result := .next ((s.shiftReg srl r).advance 2)

/-- `SRL (HL)` (R261). -/
def execSrlHlInd (s : State) : Result := .next ((s.shiftMem srl s.hl).advance 2)

/-- `SRL (IX+d)` (R261). -/
def execSrlIxInd (d : Byte) (s : State) : Result := .next ((s.shiftMem srl (s.eaIX d)).advance 4)

/-- `SRL (IY+d)` (R261). -/
def execSrlIyInd (d : Byte) (s : State) : Result := .next ((s.shiftMem srl (s.eaIY d)).advance 4)

/-- `RLD` (R262). -/
def execRld (s : State) : Result := .next (s.rotateDigitLeft.advance 2)

/-- `RRD` (R263). -/
def execRrd (s : State) : Result := .next (s.rotateDigitRight.advance 2)

/-- `BIT b,r` (R264). -/
def execBitR (b : Nat) (r : Reg8) (s : State) : Result := .next ((s.bitTest (s.r8 r) b).advance 2)

/-- `BIT b,(HL)` (R264). -/
def execBitHlInd (b : Nat) (s : State) : Result := .next (((s.readDone s.hl).bitTest (s.readByte s.hl) b).advance 2)

/-- `BIT b,(IX+d)` (R264). -/
def execBitIxInd (b : Nat) (d : Byte) (s : State) : Result :=
  .next (((s.readDone (s.eaIX d)).bitTest (s.readByte (s.eaIX d)) b).advance 4)

/-- `BIT b,(IY+d)` (R264). -/
def execBitIyInd (b : Nat) (d : Byte) (s : State) : Result :=
  .next (((s.readDone (s.eaIY d)).bitTest (s.readByte (s.eaIY d)) b).advance 4)

/-- `SET b,r` (R265). -/
def execSetR (b : Nat) (r : Reg8) (s : State) : Result := .next ((s.setR8 r (withBit (s.r8 r) b)).advance 2)

/-- `SET b,(HL)` (R265). -/
def execSetHlInd (b : Nat) (s : State) : Result := .next ((s.changeMem (withBit · b) s.hl).advance 2)

/-- `SET b,(IX+d)` (R265). -/
def execSetIxInd (b : Nat) (d : Byte) (s : State) : Result := .next ((s.changeMem (withBit · b) (s.eaIX d)).advance 4)

/-- `SET b,(IY+d)` (R265). -/
def execSetIyInd (b : Nat) (d : Byte) (s : State) : Result := .next ((s.changeMem (withBit · b) (s.eaIY d)).advance 4)

/-- `RES b,r` (R266). -/
def execResR (b : Nat) (r : Reg8) (s : State) : Result := .next ((s.setR8 r (withoutBit (s.r8 r) b)).advance 2)

/-- `RES b,(HL)` (R266). -/
def execResHlInd (b : Nat) (s : State) : Result := .next ((s.changeMem (withoutBit · b) s.hl).advance 2)

/-- `RES b,(IX+d)` (R266). -/
def execResIxInd (b : Nat) (d : Byte) (s : State) : Result :=
  .next ((s.changeMem (withoutBit · b) (s.eaIX d)).advance 4)

/-- `RES b,(IY+d)` (R266). -/
def execResIyInd (b : Nat) (d : Byte) (s : State) : Result :=
  .next ((s.changeMem (withoutBit · b) (s.eaIY d)).advance 4)

end Sys2Proof.Machine
end

