-- ==== Sys2Proof/Machine/Dispatch.lean ====
section
/-! DEFINITION. One arm per instruction, each a call of its meaning. -/

namespace Sys2Proof.Machine

def exec (i : Instr) (s : State) : Host.Outcome State Fault Refusal :=
  match i with
  -- The 8-bit loads (40_load8.md).
  | .ldRR rd rs => Sys2Proof.Machine.execLdRR rd rs s
  | .ldRN r n => Sys2Proof.Machine.execLdRN r n s
  | .ldRHlInd r => Sys2Proof.Machine.execLdRHlInd r s
  | .ldRIxInd r d => Sys2Proof.Machine.execLdRIxInd r d s
  | .ldRIyInd r d => Sys2Proof.Machine.execLdRIyInd r d s
  | .ldHlIndR r => Sys2Proof.Machine.execLdHlIndR r s
  | .ldIxIndR d r => Sys2Proof.Machine.execLdIxIndR d r s
  | .ldIyIndR d r => Sys2Proof.Machine.execLdIyIndR d r s
  | .ldHlIndN n => Sys2Proof.Machine.execLdHlIndN n s
  | .ldIxIndN d n => Sys2Proof.Machine.execLdIxIndN d n s
  | .ldIyIndN d n => Sys2Proof.Machine.execLdIyIndN d n s
  | .ldABcInd => Sys2Proof.Machine.execLdABcInd s
  | .ldADeInd => Sys2Proof.Machine.execLdADeInd s
  | .ldAMnInd mn => Sys2Proof.Machine.execLdAMnInd mn s
  | .ldBcIndA => Sys2Proof.Machine.execLdBcIndA s
  | .ldDeIndA => Sys2Proof.Machine.execLdDeIndA s
  | .ldMnIndA mn => Sys2Proof.Machine.execLdMnIndA mn s
  | .ldAIReg => Sys2Proof.Machine.execLdAIReg s
  | .ldARReg => Sys2Proof.Machine.execLdARReg s
  | .ldIRegA => Sys2Proof.Machine.execLdIRegA s
  | .ldRRegA => Sys2Proof.Machine.execLdRRegA s
  -- The 16-bit loads, the stack and the exchanges (41_load16_stack_exchange.md).
  | .ldDdMn dd mn => Sys2Proof.Machine.execLdDdMn dd mn s
  | .ldIxMn mn => Sys2Proof.Machine.execLdIxMn mn s
  | .ldIyMn mn => Sys2Proof.Machine.execLdIyMn mn s
  | .ldHlMnInd mn => Sys2Proof.Machine.execLdHlMnInd mn s
  | .ldDdMnInd dd mn => Sys2Proof.Machine.execLdDdMnInd dd mn s
  | .ldIxMnInd mn => Sys2Proof.Machine.execLdIxMnInd mn s
  | .ldIyMnInd mn => Sys2Proof.Machine.execLdIyMnInd mn s
  | .ldMnIndHl mn => Sys2Proof.Machine.execLdMnIndHl mn s
  | .ldMnIndSs mn ss => Sys2Proof.Machine.execLdMnIndSs mn ss s
  | .ldMnIndIx mn => Sys2Proof.Machine.execLdMnIndIx mn s
  | .ldMnIndIy mn => Sys2Proof.Machine.execLdMnIndIy mn s
  | .ldSpHl => Sys2Proof.Machine.execLdSpHl s
  | .pushTt tt => Sys2Proof.Machine.execPushTt tt s
  | .pushIx => Sys2Proof.Machine.execPushIx s
  | .pushIy => Sys2Proof.Machine.execPushIy s
  | .popTt tt => Sys2Proof.Machine.execPopTt tt s
  | .popIx => Sys2Proof.Machine.execPopIx s
  | .popIy => Sys2Proof.Machine.execPopIy s
  | .ldSpIx => Sys2Proof.Machine.execLdSpIx s
  | .ldSpIy => Sys2Proof.Machine.execLdSpIy s
  | .exAfAf => Sys2Proof.Machine.execExAfAf s
  | .exx => Sys2Proof.Machine.execExx s
  | .exDeHl => Sys2Proof.Machine.execExDeHl s
  | .exSpIndHl => Sys2Proof.Machine.execExSpIndHl s
  | .exSpIndIx => Sys2Proof.Machine.execExSpIndIx s
  | .exSpIndIy => Sys2Proof.Machine.execExSpIndIy s
  -- 8-bit arithmetic and logic (42_alu8.md).
  | .addAR r => Sys2Proof.Machine.execAddAR r s
  | .addAHlInd => Sys2Proof.Machine.execAddAHlInd s
  | .addAN n => Sys2Proof.Machine.execAddAN n s
  | .addAIxInd d => Sys2Proof.Machine.execAddAIxInd d s
  | .addAIyInd d => Sys2Proof.Machine.execAddAIyInd d s
  | .adcAR r => Sys2Proof.Machine.execAdcAR r s
  | .adcAHlInd => Sys2Proof.Machine.execAdcAHlInd s
  | .adcAN n => Sys2Proof.Machine.execAdcAN n s
  | .adcAIxInd d => Sys2Proof.Machine.execAdcAIxInd d s
  | .adcAIyInd d => Sys2Proof.Machine.execAdcAIyInd d s
  | .subAR r => Sys2Proof.Machine.execSubAR r s
  | .subAHlInd => Sys2Proof.Machine.execSubAHlInd s
  | .subAN n => Sys2Proof.Machine.execSubAN n s
  | .subAIxInd d => Sys2Proof.Machine.execSubAIxInd d s
  | .subAIyInd d => Sys2Proof.Machine.execSubAIyInd d s
  | .sbcAR r => Sys2Proof.Machine.execSbcAR r s
  | .sbcAHlInd => Sys2Proof.Machine.execSbcAHlInd s
  | .sbcAN n => Sys2Proof.Machine.execSbcAN n s
  | .sbcAIxInd d => Sys2Proof.Machine.execSbcAIxInd d s
  | .sbcAIyInd d => Sys2Proof.Machine.execSbcAIyInd d s
  | .andAR r => Sys2Proof.Machine.execAndAR r s
  | .andAHlInd => Sys2Proof.Machine.execAndAHlInd s
  | .andAN n => Sys2Proof.Machine.execAndAN n s
  | .andAIxInd d => Sys2Proof.Machine.execAndAIxInd d s
  | .andAIyInd d => Sys2Proof.Machine.execAndAIyInd d s
  | .xorAR r => Sys2Proof.Machine.execXorAR r s
  | .xorAHlInd => Sys2Proof.Machine.execXorAHlInd s
  | .xorAN n => Sys2Proof.Machine.execXorAN n s
  | .xorAIxInd d => Sys2Proof.Machine.execXorAIxInd d s
  | .xorAIyInd d => Sys2Proof.Machine.execXorAIyInd d s
  | .orAR r => Sys2Proof.Machine.execOrAR r s
  | .orAHlInd => Sys2Proof.Machine.execOrAHlInd s
  | .orAN n => Sys2Proof.Machine.execOrAN n s
  | .orAIxInd d => Sys2Proof.Machine.execOrAIxInd d s
  | .orAIyInd d => Sys2Proof.Machine.execOrAIyInd d s
  | .cpAR r => Sys2Proof.Machine.execCpAR r s
  | .cpAHlInd => Sys2Proof.Machine.execCpAHlInd s
  | .cpAN n => Sys2Proof.Machine.execCpAN n s
  | .cpAIxInd d => Sys2Proof.Machine.execCpAIxInd d s
  | .cpAIyInd d => Sys2Proof.Machine.execCpAIyInd d s
  | .incR r => Sys2Proof.Machine.execIncR r s
  | .incHlInd => Sys2Proof.Machine.execIncHlInd s
  | .incIxInd d => Sys2Proof.Machine.execIncIxInd d s
  | .incIyInd d => Sys2Proof.Machine.execIncIyInd d s
  | .decR r => Sys2Proof.Machine.execDecR r s
  | .decHlInd => Sys2Proof.Machine.execDecHlInd s
  | .decIxInd d => Sys2Proof.Machine.execDecIxInd d s
  | .decIyInd d => Sys2Proof.Machine.execDecIyInd d s
  | .daa => Sys2Proof.Machine.execDaa s
  | .cpl => Sys2Proof.Machine.execCpl s
  | .neg => Sys2Proof.Machine.execNeg s
  | .ccf => Sys2Proof.Machine.execCcf s
  | .scf => Sys2Proof.Machine.execScf s
  -- 16-bit arithmetic (43_alu16.md).
  | .addHlSs ss => Sys2Proof.Machine.execAddHlSs ss s
  | .addIxXx xx => Sys2Proof.Machine.execAddIxXx xx s
  | .addIyYy yy => Sys2Proof.Machine.execAddIyYy yy s
  | .adcHlSs ss => Sys2Proof.Machine.execAdcHlSs ss s
  | .sbcHlSs ss => Sys2Proof.Machine.execSbcHlSs ss s
  | .incSs dd => Sys2Proof.Machine.execIncSs dd s
  | .incIx => Sys2Proof.Machine.execIncIx s
  | .incIy => Sys2Proof.Machine.execIncIy s
  | .decSs dd => Sys2Proof.Machine.execDecSs dd s
  | .decIx => Sys2Proof.Machine.execDecIx s
  | .decIy => Sys2Proof.Machine.execDecIy s
  -- Rotates, shifts, digit rotates and bit operations (44_rotate_shift_bit.md).
  | .rlca => Sys2Proof.Machine.execRlca s
  | .rla => Sys2Proof.Machine.execRla s
  | .rrca => Sys2Proof.Machine.execRrca s
  | .rra => Sys2Proof.Machine.execRra s
  | .rlcR r => Sys2Proof.Machine.execRlcR r s
  | .rlcHlInd => Sys2Proof.Machine.execRlcHlInd s
  | .rlcIxInd d => Sys2Proof.Machine.execRlcIxInd d s
  | .rlcIyInd d => Sys2Proof.Machine.execRlcIyInd d s
  | .rlR r => Sys2Proof.Machine.execRlR r s
  | .rlHlInd => Sys2Proof.Machine.execRlHlInd s
  | .rlIxInd d => Sys2Proof.Machine.execRlIxInd d s
  | .rlIyInd d => Sys2Proof.Machine.execRlIyInd d s
  | .rrcR r => Sys2Proof.Machine.execRrcR r s
  | .rrcHlInd => Sys2Proof.Machine.execRrcHlInd s
  | .rrcIxInd d => Sys2Proof.Machine.execRrcIxInd d s
  | .rrcIyInd d => Sys2Proof.Machine.execRrcIyInd d s
  | .rrR r => Sys2Proof.Machine.execRrR r s
  | .rrHlInd => Sys2Proof.Machine.execRrHlInd s
  | .rrIxInd d => Sys2Proof.Machine.execRrIxInd d s
  | .rrIyInd d => Sys2Proof.Machine.execRrIyInd d s
  | .slaR r => Sys2Proof.Machine.execSlaR r s
  | .slaHlInd => Sys2Proof.Machine.execSlaHlInd s
  | .slaIxInd d => Sys2Proof.Machine.execSlaIxInd d s
  | .slaIyInd d => Sys2Proof.Machine.execSlaIyInd d s
  | .sraR r => Sys2Proof.Machine.execSraR r s
  | .sraHlInd => Sys2Proof.Machine.execSraHlInd s
  | .sraIxInd d => Sys2Proof.Machine.execSraIxInd d s
  | .sraIyInd d => Sys2Proof.Machine.execSraIyInd d s
  | .srlR r => Sys2Proof.Machine.execSrlR r s
  | .srlHlInd => Sys2Proof.Machine.execSrlHlInd s
  | .srlIxInd d => Sys2Proof.Machine.execSrlIxInd d s
  | .srlIyInd d => Sys2Proof.Machine.execSrlIyInd d s
  | .rld => Sys2Proof.Machine.execRld s
  | .rrd => Sys2Proof.Machine.execRrd s
  | .bitR b r => Sys2Proof.Machine.execBitR b r s
  | .bitHlInd b => Sys2Proof.Machine.execBitHlInd b s
  | .bitIxInd b d => Sys2Proof.Machine.execBitIxInd b d s
  | .bitIyInd b d => Sys2Proof.Machine.execBitIyInd b d s
  | .setR b r => Sys2Proof.Machine.execSetR b r s
  | .setHlInd b => Sys2Proof.Machine.execSetHlInd b s
  | .setIxInd b d => Sys2Proof.Machine.execSetIxInd b d s
  | .setIyInd b d => Sys2Proof.Machine.execSetIyInd b d s
  | .resR b r => Sys2Proof.Machine.execResR b r s
  | .resHlInd b => Sys2Proof.Machine.execResHlInd b s
  | .resIxInd b d => Sys2Proof.Machine.execResIxInd b d s
  | .resIyInd b d => Sys2Proof.Machine.execResIyInd b d s
  -- Block transfer and block search (45_block.md).
  | .ldi => Sys2Proof.Machine.execLdi s
  | .ldir => Sys2Proof.Machine.execLdir s
  | .ldd => Sys2Proof.Machine.execLdd s
  | .lddr => Sys2Proof.Machine.execLddr s
  | .cpi => Sys2Proof.Machine.execCpi s
  | .cpir => Sys2Proof.Machine.execCpir s
  | .cpd => Sys2Proof.Machine.execCpd s
  | .cpdr => Sys2Proof.Machine.execCpdr s
  -- Control transfer (46_control_transfer.md). No instruction here writes a flag.
  | .jpMn mn => Sys2Proof.Machine.execJpMn mn s
  | .jpCcMn cc mn => Sys2Proof.Machine.execJpCcMn cc mn s
  | .jpHl => Sys2Proof.Machine.execJpHl s
  | .jpIx => Sys2Proof.Machine.execJpIx s
  | .jpIy => Sys2Proof.Machine.execJpIy s
  | .jr e => Sys2Proof.Machine.execJr e s
  | .jrCc cc e => Sys2Proof.Machine.execJrCc cc e s
  | .djnz e => Sys2Proof.Machine.execDjnz e s
  | .callMn mn => Sys2Proof.Machine.execCallMn mn s
  | .callCcMn cc mn => Sys2Proof.Machine.execCallCcMn cc mn s
  | .ret => Sys2Proof.Machine.execRet s
  | .retCc cc => Sys2Proof.Machine.execRetCc cc s
  | .reti => Sys2Proof.Machine.execReti s
  | .retn => Sys2Proof.Machine.execRetn s
  | .rst v => Sys2Proof.Machine.execRst v s
  -- Input and output (47_io.md).
  | .inAN n => Sys2Proof.Machine.execInAN n s
  | .inRC r => Sys2Proof.Machine.execInRC r s
  | .outNA n => Sys2Proof.Machine.execOutNA n s
  | .outCR r => Sys2Proof.Machine.execOutCR r s
  | .ini => Sys2Proof.Machine.execIni s
  | .inir => Sys2Proof.Machine.execInir s
  | .ind => Sys2Proof.Machine.execInd s
  | .indr => Sys2Proof.Machine.execIndr s
  | .outi => Sys2Proof.Machine.execOuti s
  | .otir => Sys2Proof.Machine.execOtir s
  | .outd => Sys2Proof.Machine.execOutd s
  | .otdr => Sys2Proof.Machine.execOtdr s
  -- CPU control (48_cpu_control.md).
  | .nop => Sys2Proof.Machine.execNop s
  | .halt => Sys2Proof.Machine.execHalt s
  | .di => Sys2Proof.Machine.execDi s
  | .ei => Sys2Proof.Machine.execEi s
  | .im0 => Sys2Proof.Machine.execIm0 s
  | .im1 => Sys2Proof.Machine.execIm1 s
  | .im2 => Sys2Proof.Machine.execIm2 s

end Sys2Proof.Machine
end

