-- ==== Sys2Proof/Machine/Fetch.lean ====
section
/-! DEFINITION. Fetching an instruction's bytes from memory (20_memory.md R61, R74), and placing a program there. -/

namespace Sys2Proof.Machine

/-- The bytes that so many reads from an address on return, wrapping (R13, R61). -/
def bytesFrom : Nat → Word → State → List Byte
  | 0, _, _ => []
  | n + 1, a, s => s.readByte a :: bytesFrom n (a + 1) (s.readDone a)

/-- The state after so many reads from an address on (R61). -/
def readFrom : Nat → Word → State → State
  | 0, _, s => s
  | n + 1, a, s => readFrom n (a + 1) (s.readDone a)

/-- The four bytes at PC, as many as the longest instruction has (R61, R91); an instruction reads those it has. They are read when
the instruction starts, so every earlier store is seen (R74; log entry 27). -/
def State.fetch (s : State) : List Byte := bytesFrom 4 s.pc s

/-- The state in which an instruction of `len` bytes executes: its bytes have been read, one transaction each (R61, R74). Whether
the next iteration of a repeat reads them again, and what the CPU reads and discards at the next address or spends idle beside the
transactions the rules list, is left open (R290, R68, R78; log entries 8 and 17). By the model's choice the one event of a repeat
stands for all the `len` reads, also where the bytes were changed between iterations and are no longer two (log entry 33). -/
def State.fetched (s : State) (len : Nat) : State :=
  let t := readFrom len s.pc s
  { t with
    trace := .unlisted (s.pc + BitVec.ofNat 16 len) (Config.unlistedReads t.draws) (Config.unlistedIdles t.draws) ::
      (if s.repeating then .refetch s.pc (Config.refetches t.draws) :: s.trace else t.trace)
    draws := t.draws + 1
    repeating := false }

/-- The memory with bytes placed from an address on, wrapping: how a program is placed from outside (log entry 1). -/
def placeBytes : Memory → Word → List Byte → Memory
  | m, _, [] => m
  | m, a, v :: rest => placeBytes (memWrite m a.toNat v) (a + 1) rest

/-- The memory map with storage behind the four addresses from an address on: RAM where one of them had none (log entry 1). -/
def State.mapForFetch (s : State) : List Region :=
  if [s.pc, s.pc + 1, s.pc + 2, s.pc + 3].all s.holds then s.memMap else ⟨s.pc, 4, .ram⟩ :: s.memMap

end Sys2Proof.Machine
end

