-- ==== Sys2Proof/Machine/Step.lean ====
section
/-! DEFINITION. One step: one boundary check and what it leads to (60_exceptions.md R402). -/

namespace Sys2Proof.Machine

/-- The instruction at PC is decoded, fetched and executed, by as many bytes as the decoder used; bytes without an entry have no
successor state (R112, D1). -/
def runInstruction (s : State) : Result :=
  match decode s.fetch with
  | .ok (i, rest) => exec i (s.fetched (s.fetch.length - rest.length))
  | .error e => .refused (.undefinedEncoding e)

/-- `Step()` (R402). -/
def step (s : State) : Host.Outcome State Fault Refusal :=
  match s.service with
  | .resetUser => .next s.sampled.resetUser
  | .resetPowerOn => .next s.sampled.resetPowerOn
  | .dma accesses => .next (s.sampled.grantBus accesses)
  | .nonMaskable v => .next (ackNonMaskable v s.sampled)
  | .maskable v => ackMaskable v s.sampled
  | .idle => .next (s.sampled.emit .halt)
  | .execute => runInstruction s.sampled

/-- The state whose next step fetches and runs the instruction of a table word: its bytes at PC, zeros up to four bytes,
storage behind them, not halted, and nothing requested at the next boundary (log entries 1 and 26). -/
def State.withFetchWord (s : State) (nbits w : Nat) : State :=
  { s with
    mem := placeBytes s.mem s.pc (tableBytes nbits w)
    memMap := s.mapForFetch
    halted := false
    nmiPending := false
    inputs := match s.inputs with
      | [] => []
      | smp :: rest => ⟨.inactive, none, false, false, smp.ivec⟩ :: smp :: rest }

end Sys2Proof.Machine
end

