-- ==== Sys2Proof/Safety.lean ====
section
/-! DEFINITION. The terms claims are stated in: what a step leaves unchanged, what it means that an instruction completes, the
sequences that a boundary serves, and the invariants. -/

namespace Sys2Proof.Machine

/-- The parts of the state besides memory. -/
inductive Loc where
  | a | f | b | c | d | e | h | l
  | aAlt | fAlt | bAlt | cAlt | dAlt | eAlt | hAlt | lAlt
  | ix | iy | sp | pc | iReg | rReg | iff1 | iff2 | im | halted | nmiPending
  | memMap | inputs | ioIn | memIn | repeating | trace | draws
  deriving DecidableEq, Repr

/-- That part holds the same in both states. -/
def Loc.Same (s t : State) : Loc → Prop
  | .a => t.a = s.a
  | .f => t.f = s.f
  | .b => t.b = s.b
  | .c => t.c = s.c
  | .d => t.d = s.d
  | .e => t.e = s.e
  | .h => t.h = s.h
  | .l => t.l = s.l
  | .aAlt => t.aAlt = s.aAlt
  | .fAlt => t.fAlt = s.fAlt
  | .bAlt => t.bAlt = s.bAlt
  | .cAlt => t.cAlt = s.cAlt
  | .dAlt => t.dAlt = s.dAlt
  | .eAlt => t.eAlt = s.eAlt
  | .hAlt => t.hAlt = s.hAlt
  | .lAlt => t.lAlt = s.lAlt
  | .ix => t.ix = s.ix
  | .iy => t.iy = s.iy
  | .sp => t.sp = s.sp
  | .pc => t.pc = s.pc
  | .iReg => t.iReg = s.iReg
  | .rReg => t.rReg = s.rReg
  | .iff1 => t.iff1 = s.iff1
  | .iff2 => t.iff2 = s.iff2
  | .im => t.im = s.im
  | .halted => t.halted = s.halted
  | .nmiPending => t.nmiPending = s.nmiPending
  | .inputs => t.inputs = s.inputs
  | .ioIn => t.ioIn = s.ioIn
  | .memMap => t.memMap = s.memMap
  | .memIn => t.memIn = s.memIn
  | .repeating => t.repeating = s.repeating
  | .trace => t.trace = s.trace
  | .draws => t.draws = s.draws

/-- Every part of the state besides memory is unchanged, except those listed. -/
def Unchanged (changed : List Loc) (s t : State) : Prop := ∀ x : Loc, x ∉ changed → x.Same s t

/-- Every byte of memory is as before, except at the addresses listed. `cell` is the model's read of one byte of memory, and what
a read of an address of RAM or ROM returns. -/
def MemUnchanged (stored : List Word) (s t : State) : Prop := ∀ a : Word, a ∉ stored → t.cell a = s.cell a

/-- A read transaction of an address without storage, whose byte is an input (R14). -/
def BusEvent.takesMemInput (s : State) : BusEvent → Bool
  | .memRead a _ => !s.holds a
  | _ => false

/-- An I/O read transaction, whose byte is an input (R64). -/
def BusEvent.takesIoInput : BusEvent → Bool
  | .ioRead _ _ => true
  | _ => false

/-- The last byte that the transactions, oldest first, write at an address. -/
def lastWrite (a : Word) : List BusEvent → Option Byte
  | [] => none
  | .memWrite b v :: rest => (lastWrite a rest).or (if b = a then some v else none)
  | _ :: rest => lastWrite a rest

/-- Exactly these transactions took place, oldest first (R71, R78): the trace has gained them; each read of an address without
storage and each I/O read has used up one queued byte; and memory holds what they wrote where RAM is, and what it held before
everywhere else (R4, D13). -/
def Transacts (evs : List BusEvent) (s t : State) : Prop :=
  t.trace = evs.reverse ++ s.trace ∧
  t.memIn = s.memIn.drop (evs.countP (BusEvent.takesMemInput s)) ∧
  t.ioIn = s.ioIn.drop (evs.countP BusEvent.takesIoInput) ∧
  ∀ a, t.cell a = if s.keeps a then (lastWrite a evs).getD (s.cell a) else s.cell a

/-- The read of one byte. -/
def State.byteRead (s : State) (a : Word) : List BusEvent := [.memRead a (s.readByte a)]

/-- The reads of the two bytes of a word, the lower address first (R63). -/
def State.wordRead (s : State) (a : Word) : List BusEvent :=
  [.memRead a (s.readByte a), .memRead (a + 1) ((s.readDone a).readByte (a + 1))]

/-- What a read of an address gives: what memory holds there where RAM or ROM is, else the next queued input byte if there is one
(R14, D13). -/
def State.ReadGives (s : State) (a : Word) : Prop :=
  (s.backing a = .ram ∨ s.backing a = .rom → s.readByte a = s.cell a) ∧
  (s.backing a = .nothing ∨ s.backing a = .device → ∀ v rest, s.memIn = v :: rest → s.readByte a = v)

/-- The part an 8-bit register is. -/
def Loc.ofReg8 : Reg8 → Loc
  | .b => .b | .c => .c | .d => .d | .e => .e | .h => .h | .l => .l | .a => .a

/-- The parts a register of the `dd` and `ss` fields is. -/
def Loc.ofDD : RegDD → List Loc
  | .bc => [.b, .c] | .de => [.d, .e] | .hl => [.h, .l] | .sp => [.sp]

/-- The parts a register of the `tt` field is. -/
def Loc.ofTT : RegTT → List Loc
  | .bc => [.b, .c] | .de => [.d, .e] | .hl => [.h, .l] | .af => [.a, .f]

/-- The instruction has this encoding, and `exec` of it gives a next state in which nothing has changed but PC, the parts
listed and the bytes at the addresses listed, and of which `post` holds. -/
def Runs (i : Instr) (bytes : List Byte) (s : State) (changed : List Loc) (stored : List Word) (post : State → Prop) :
    Prop :=
  (i.wellFormed = true → encode i = bytes) ∧
    ∃ t, exec i s = .next t ∧ Unchanged (.pc :: changed) s t ∧ MemUnchanged stored s t ∧ post t

/-- As `Runs`, and PC moves past the instruction's bytes. -/
def Completes (i : Instr) (bytes : List Byte) (s : State) (changed : List Loc) (stored : List Word)
    (post : State → Prop) : Prop :=
  Runs i bytes s changed stored fun t => t.pc = s.pc + BitVec.ofNat 16 bytes.length ∧ post t

/-- The address `EA(XY, d)` as a number: the index register plus the displacement as a signed number, modulo 65536
(R98, D7). -/
def IsIndexed (a xy : Word) (d : Byte) : Prop := (a.toNat : Int) = ((xy.toNat : Int) + d.toInt) % 65536

/-- The number of 1 bits is even (R7). -/
def evenOnes (v : Byte) : Bool := decide ((List.range 8).countP (fun k => v.getLsbD k) % 2 = 0)

/-- A word register or address as the number its two bytes make, the high byte first. -/
def bytesToNat (hi lo : Byte) : Nat := 256 * hi.toNat + lo.toNat

/-- The word in memory at an address: the low byte there, the high byte at the next address, read after it (R60, R63). -/
def State.wordAt (s : State) (a : Word) : Nat := bytesToNat ((s.readDone a).readByte (a + 1)) (s.readByte a)

/-- After the transactions `before`, the word `v` was stored at `a`, low byte first (R63). -/
def StoredWord (a v : Word) (before : List BusEvent) (s t : State) : Prop :=
  ∃ hi lo, bytesToNat hi lo = v.toNat ∧ Transacts (before ++ [.memWrite a lo, .memWrite (a + 1) hi]) s t

/-- After the transactions `before`, the word `v` was pushed, high byte first (R65). -/
def PushedWord (v : Word) (before : List BusEvent) (s t : State) : Prop :=
  t.sp = s.sp - 2 ∧ ∃ hi lo, bytesToNat hi lo = v.toNat ∧
    Transacts (before ++ [.memWrite (s.sp - 1) hi, .memWrite (s.sp - 2) lo]) s t

/-- The five operand forms of an accumulator operation (R190): register, (HL), immediate, (IX+d), (IY+d). `op` is the
operation's byte of the register form for B; `P` is what is said of the instruction, its encoding, its operand and its reads. -/
def AluForms (s : State) (onR : Reg8 → Instr) (onHl : Instr) (onN : Byte → Instr) (onIx onIy : Byte → Instr) (op : Byte)
    (P : Instr → List Byte → Byte → List BusEvent → Prop) : Prop :=
  (∀ r, P (onR r) [op + r.code] (s.r8 r) []) ∧
  P onHl [op + 6#8] (s.readByte s.hl) (s.byteRead s.hl) ∧
  (∀ n, P (onN n) [op + 0x46#8, n] n []) ∧
  (∀ d, P (onIx d) [0xDD#8, op + 6#8, d] (s.readByte (s.eaIX d)) (s.byteRead (s.eaIX d))) ∧
  (∀ d, P (onIy d) [0xFD#8, op + 6#8, d] (s.readByte (s.eaIY d)) (s.byteRead (s.eaIY d)))

/-- A becomes `A + src + cin` and F the flags of R191, overflow meaning a signed sum outside -128..127 (D21). -/
def AddsToA (s : State) (cin : Bool) (i : Instr) (bytes : List Byte) (src : Byte) (reads : List BusEvent) : Prop :=
  Completes i bytes s [.a, .f, .memIn, .draws, .trace] [] fun t => Transacts reads s t ∧
    t.a.toNat = (s.a.toNat + src.toNat + cin.toNat) % 256 ∧
    t.flags =
      { s := decide (128 ≤ t.a.toNat)
        z := decide (t.a.toNat = 0)
        h := decide (15 < s.a.toNat % 16 + src.toNat % 16 + cin.toNat)
        pv := decide (s.a.toInt + src.toInt + cin.toNat < -128 ∨ 127 < s.a.toInt + src.toInt + cin.toNat)
        n := false
        c := decide (255 < s.a.toNat + src.toNat + cin.toNat) }

/-- The flags of `x - src - cin` with result `r` (R193), overflow meaning a signed difference outside -128..127 (D21). -/
def borrowFlags (x src : Byte) (cin : Bool) (r : Nat) : Flags where
  s := decide (128 ≤ r)
  z := decide (r = 0)
  h := decide (x.toNat % 16 < src.toNat % 16 + cin.toNat)
  pv := decide (x.toInt - src.toInt - cin.toNat < -128 ∨ 127 < x.toInt - src.toInt - cin.toNat)
  n := true
  c := decide (x.toNat < src.toNat + cin.toNat)

/-- A becomes `A - src - cin` and F the flags of R193. -/
def SubtractsFromA (s : State) (cin : Bool) (i : Instr) (bytes : List Byte) (src : Byte) (reads : List BusEvent) : Prop :=
  Completes i bytes s [.a, .f, .memIn, .draws, .trace] [] fun t => Transacts reads s t ∧
    (t.a.toNat : Int) = ((s.a.toNat : Int) - src.toNat - cin.toNat) % 256 ∧
    t.flags = borrowFlags s.a src cin t.a.toNat

/-- F gets the flags of `A - src`; A is not written (R198). -/
def ComparesWithA (s : State) (i : Instr) (bytes : List Byte) (src : Byte) (reads : List BusEvent) : Prop :=
  Completes i bytes s [.f, .memIn, .draws, .trace] [] fun t => Transacts reads s t ∧
    t.flags = borrowFlags s.a src false (((s.a.toNat : Int) - src.toNat) % 256).toNat ∧
    (t.flags.z = true ↔ s.a = src) ∧ (t.flags.c = true ↔ s.a.toNat < src.toNat)

/-- A becomes the bitwise `op` of A and `src` and F the flags of R195 to R197. -/
def CombinesWithA (s : State) (op : Bool → Bool → Bool) (h : Bool) (i : Instr) (bytes : List Byte) (src : Byte)
    (reads : List BusEvent) : Prop :=
  Completes i bytes s [.a, .f, .memIn, .draws, .trace] [] fun t => Transacts reads s t ∧
    (∀ k, k < 8 → t.a.getLsbD k = op (s.a.getLsbD k) (src.getLsbD k)) ∧
    t.flags = ⟨decide (128 ≤ t.a.toNat), decide (t.a.toNat = 0), h, evenOnes t.a, false, false⟩

/-- The result `r` and the flags of INC of `v` (R199). -/
def IsIncrement (v r : Byte) (s t : State) : Prop :=
  r.toNat = (v.toNat + 1) % 256 ∧
    t.flags = ⟨decide (128 ≤ r.toNat), decide (r.toNat = 0), decide (v.toNat % 16 = 15), decide (v.toNat = 127), false,
      s.flags.c⟩

/-- The result `r` and the flags of DEC of `v` (R200). -/
def IsDecrement (v r : Byte) (s t : State) : Prop :=
  (r.toNat : Int) = ((v.toNat : Int) - 1) % 256 ∧
    t.flags = ⟨decide (128 ≤ r.toNat), decide (r.toNat = 0), decide (v.toNat % 16 = 0), decide (v.toNat = 128), true,
      s.flags.c⟩

/-- A register is incremented or decremented, as `P` says. -/
def StepsRegister (i : Instr) (bytes : List Byte) (s : State) (r : Reg8) (P : Byte → Byte → State → State → Prop) : Prop :=
  Completes i bytes s [.ofReg8 r, .f, .draws] [] fun t => P (s.r8 r) (t.r8 r) s t

/-- A memory byte is read, incremented or decremented as `P` says, and written back to the same address. -/
def StepsMemory (i : Instr) (bytes : List Byte) (s : State) (a : Word) (P : Byte → Byte → State → State → Prop) : Prop :=
  Completes i bytes s [.f, .memIn, .draws, .trace] [a] fun t =>
    ∃ r, P (s.readByte a) r s t ∧ Transacts (s.byteRead a ++ [.memWrite a r]) s t

/-- The flags of the CB-page rotates and shifts with result `r` and the bit `out` shifted out. -/
def shiftedFlags (r : Byte) (out : Bool) : Flags :=
  ⟨decide (128 ≤ r.toNat), decide (r.toNat = 0), false, evenOnes r, false, out⟩

/-- A memory byte is read, rotated or shifted, and written back to the same address (R250). -/
def ShiftsMemory (i : Instr) (bytes : List Byte) (s : State) (a : Word) (res : Nat → Nat) (out : Nat → Bool) : Prop :=
  Completes i bytes s [.f, .memIn, .draws, .trace] [a] fun t =>
    ∃ r : Byte, r.toNat = res (s.readByte a).toNat ∧ Transacts (s.byteRead a ++ [.memWrite a r]) s t ∧
    t.flags = shiftedFlags r (out (s.readByte a).toNat)

/-- The four operand forms of a rotate or shift (R250). `op` is the operation byte of the register form for B; `res` and
`out` give the result and the bit shifted out, both from the operand as a number. -/
def ShiftForms (s : State) (onR : Reg8 → Instr) (onHl : Instr) (onIx onIy : Byte → Instr) (op : Byte) (res : Nat → Nat)
    (out : Nat → Bool) : Prop :=
  (∀ r, Completes (onR r) [0xCB#8, op + r.code] s [.ofReg8 r, .f, .draws] [] fun t =>
    (t.r8 r).toNat = res (s.r8 r).toNat ∧ t.flags = shiftedFlags (t.r8 r) (out (s.r8 r).toNat)) ∧
  ShiftsMemory onHl [0xCB#8, op + 6#8] s s.hl res out ∧
  (∀ d, ShiftsMemory (onIx d) [0xDD#8, 0xCB#8, d, op + 6#8] s (s.eaIX d) res out) ∧
  (∀ d, ShiftsMemory (onIy d) [0xFD#8, 0xCB#8, d, op + 6#8] s (s.eaIY d) res out)

/-- Bit `b` of `y` is `v` and every other bit is that of `x`. -/
def BitBecomes (b : Nat) (v : Bool) (x y : Byte) : Prop :=
  ∀ k, k < 8 → y.getLsbD k = if k = b then v else x.getLsbD k

/-- Bit `b` of the memory byte at an address becomes `v` (R250, R265, R266). -/
def WritesBit (i : Instr) (bytes : List Byte) (s : State) (a : Word) (b : Nat) (v : Bool) : Prop :=
  Completes i bytes s [.memIn, .draws, .trace] [a] fun t =>
    ∃ r, BitBecomes b v (s.readByte a) r ∧ Transacts (s.byteRead a ++ [.memWrite a r]) s t

/-- The four operand forms of SET and RES (R250): bit `b` becomes `v`, every other bit stays, no flag is written. `op` is the
operation byte of the register form for bit 0 of B. -/
def BitForms (s : State) (onR : Nat → Reg8 → Instr) (onHl : Nat → Instr) (onIx onIy : Nat → Byte → Instr) (op : Byte)
    (v : Bool) : Prop :=
  (∀ b r, Completes (onR b r) [0xCB#8, op + 8#8 * BitVec.ofNat 8 b + r.code] s [.ofReg8 r] [] fun t =>
    BitBecomes b v (s.r8 r) (t.r8 r)) ∧
  (∀ b, WritesBit (onHl b) [0xCB#8, op + 8#8 * BitVec.ofNat 8 b + 6#8] s s.hl b v) ∧
  (∀ b d, WritesBit (onIx b d) [0xDD#8, 0xCB#8, d, op + 8#8 * BitVec.ofNat 8 b + 6#8] s (s.eaIX d) b v) ∧
  (∀ b d, WritesBit (onIy b d) [0xFD#8, 0xCB#8, d, op + 8#8 * BitVec.ofNat 8 b + 6#8] s (s.eaIY d) b v)

/-- The bit of F a condition looks at and the value it wants (R100, R24). -/
def condBit : Cond → Nat × Bool
  | .nz => (6, false) | .z => (6, true) | .nc => (0, false) | .c => (0, true)
  | .po => (2, false) | .pe => (2, true) | .p => (7, false) | .m => (7, true)

/-- The bit of F a JR condition looks at and the value it wants (R101, R24). -/
def ccBit : CC → Nat × Bool
  | .nz => (6, false) | .z => (6, true) | .nc => (0, false) | .c => (0, true)

/-- The condition is true of F (R100). -/
def State.meets (s : State) (w : Nat × Bool) : Bool := s.f.getLsbD w.1 == w.2

/-- A repeating block instruction does what its sibling does, and PC stays at it while `again` holds of the state after the
iteration (R290), which the model's own field `repeating` records. -/
def RepeatsAs (i sibling : Instr) (bytes : List Byte) (s : State) (again : State → Bool) : Prop :=
  encode i = bytes ∧ ∃ t, exec sibling s = .next t ∧
    exec i s = .next (if again t then { t with pc := s.pc, repeating := true } else t)

/-- The byte `v` is what an I/O read gives: the next queued input byte if there is one (R64). -/
def PortGives (s : State) (v : Byte) : Prop := ∀ w rest, s.ioIn = w :: rest → v = w

/-- The flags of a block input or output: Z from the decremented B, N set, S, H, P/V and C unaffected. -/
def blockPortFlags (s : State) (b : Byte) : Flags := { s.flags with z := decide (b.toNat = 0), n := true }

/-- INI and IND: one byte from the port BC to the address HL, B counted down, HL moved by `delta` (R344, R346). -/
def InputsBlock (i : Instr) (bytes : List Byte) (s : State) (delta : Word) : Prop :=
  Completes i bytes s [.b, .h, .l, .f, .draws, .ioIn, .trace] [s.hl] fun t =>
    (∃ v, PortGives s v ∧ Transacts [.ioRead s.bc v, .memWrite s.hl v] s t) ∧
    t.b = s.b - 1 ∧ t.hl = s.hl + delta ∧ t.flags = blockPortFlags s t.b

/-- OUTI and OUTD: the byte at HL to the port BC, B counted down, HL moved by `delta` (R348, R350). -/
def OutputsBlock (i : Instr) (bytes : List Byte) (s : State) (delta : Word) : Prop :=
  Completes i bytes s [.b, .h, .l, .f, .memIn, .draws, .trace] [] fun t =>
    Transacts (s.byteRead s.hl ++ [.ioWrite s.bc (s.readByte s.hl)]) s t ∧
    t.b = s.b - 1 ∧ t.hl = s.hl + delta ∧ t.flags = blockPortFlags s t.b

/-- LDI and LDD: the byte at HL to the address DE, BC counted down, DE and HL moved by `delta` (R291, R293). -/
def TransfersBlock (i : Instr) (bytes : List Byte) (s : State) (delta : Word) : Prop :=
  Completes i bytes s [.b, .c, .d, .e, .h, .l, .f, .memIn, .draws, .trace] [s.de] fun t =>
    Transacts (s.byteRead s.hl ++ [.memWrite s.de (s.readByte s.hl)]) s t ∧
    t.bc = s.bc - 1 ∧ t.de = s.de + delta ∧ t.hl = s.hl + delta ∧
    t.flags = { s.flags with h := false, pv := decide (t.bc ≠ 0#16), n := false }

/-- CPI and CPD: A is compared with the byte at HL, BC counted down, HL moved by `delta` (R295, R297). -/
def ComparesBlock (i : Instr) (bytes : List Byte) (s : State) (delta : Word) : Prop :=
  Completes i bytes s [.b, .c, .h, .l, .f, .memIn, .draws, .trace] [] fun t =>
    Transacts (s.byteRead s.hl) s t ∧ t.bc = s.bc - 1 ∧ t.hl = s.hl + delta ∧
    t.flags =
      { s := decide (128 ≤ ((s.a.toNat : Int) - (s.readByte s.hl).toNat) % 256)
        z := decide (s.a = s.readByte s.hl)
        h := decide (s.a.toNat % 16 < (s.readByte s.hl).toNat % 16)
        pv := decide (t.bc ≠ 0#16)
        n := true
        c := s.flags.c }

/-- The packed-BCD byte of a number below 100. -/
def packedBcd (x : Nat) : Byte := BitVec.ofNat 8 (16 * (x / 10) + x % 10)

/-- The last byte the other bus master writes at an address, of its accesses in order (R76). -/
def lastDmaWrite (a : Word) : List DmaAccess → Option Byte
  | [] => none
  | .memWrite b v :: rest => (lastDmaWrite a rest).or (if b = a then some v else none)
  | _ :: rest => lastDmaWrite a rest

/-- No reset is requested at this boundary and the bus is not requested. -/
def State.Free (s : State) : Prop := s.sample.reset = .inactive ∧ s.sample.dma = none

/-- A non-maskable request is latched or sampled at this boundary. -/
def State.NmiDue (s : State) : Prop := s.nmiPending = true ∨ s.sample.nmiReq = true

/-- A maskable request is up and interrupts are enabled. -/
def State.IntDue (s : State) : Prop := s.sample.intReq = true ∧ s.iff1 = true

/-- Nothing stands between this boundary and the instruction at PC (R402). -/
def State.Undisturbed (s : State) : Prop := s.Free ∧ ¬ s.NmiDue ∧ ¬ s.IntDue ∧ s.halted = false

/-- The control state right after either reset, and the registers `resetb` initialises (R41, R451; the values are log entries 5
and 12). -/
def State.ControlReset (t : State) : Prop :=
  t.pc = 0x0000#16 ∧ t.iReg = Config.resetI ∧ t.rReg = Config.resetR ∧ t.sp = Config.resetSp ∧
  t.iff1 = false ∧ t.iff2 = false ∧ t.im = .im0 ∧ t.halted = false ∧ t.nmiPending = false

/-- The registers that only `clearb` initialises hold the values log entry 5 names (R41, R452). -/
def State.RegistersCleared (t : State) : Prop :=
  (∀ v ∈ [t.a, t.f, t.b, t.c, t.d, t.e, t.h, t.l, t.aAlt, t.fAlt, t.bAlt, t.cAlt, t.dAlt, t.eAlt, t.hAlt, t.lAlt],
    v = Config.powerOnByte) ∧ t.ix = Config.powerOnWord ∧ t.iy = Config.powerOnWord

/-- The four bytes at PC, each read after the ones before it (R61). -/
def State.bytesAtPC (s : State) : List Byte :=
  let s1 := s.readDone s.pc
  let s2 := s1.readDone (s.pc + 1)
  let s3 := s2.readDone (s.pc + 2)
  [s.readByte s.pc, s1.readByte (s.pc + 1), s2.readByte (s.pc + 2), s3.readByte (s.pc + 3)]

/-- The read transactions that give these bytes from an address on (R61). -/
def fetchReads : Word → List Byte → List BusEvent
  | _, [] => []
  | a, v :: rest => .memRead a v :: fetchReads (a + 1) rest

/-- `u` is `s` after the boundary's sample is used up and an instruction with these bytes is fetched: one read for each byte,
then the model's event for what no rule lists; in a repeat that goes on, instead of the reads, the model's event for whether they
happen (log entries 8, 17 and 33). Nothing else has changed. -/
def State.FetchedAs (s : State) (bytes : List Byte) (u : State) : Prop :=
  Unchanged [.inputs, .memIn, .repeating, .trace, .draws] s u ∧ MemUnchanged [] s u ∧
  u.inputs = s.inputs.tail ∧ u.repeating = false ∧
  u.memIn = s.memIn.drop ((fetchReads s.pc bytes).countP (BusEvent.takesMemInput s)) ∧
  ∃ reads idles again, u.trace = .unlisted (s.pc + BitVec.ofNat 16 bytes.length) reads idles ::
    ((if s.repeating then [.refetch s.pc again] else (fetchReads s.pc bytes).reverse) ++ s.trace)

/-- This step executes that instruction. -/
def State.Executes (s : State) (i : Instr) : Prop := s.Undisturbed ∧ ∃ rest, decode s.bytesAtPC = .ok (i, rest)

/-- IFF1 is set only where IFF2 is. -/
def State.EnableOrder (s : State) : Prop := s.iff1 = true → s.iff2 = true

/-- The second bytes the ED page defines (R104). -/
def edDefined : List Byte :=
  [0x40#8, 0x48#8, 0x50#8, 0x58#8, 0x60#8, 0x68#8, 0x78#8, 0x41#8, 0x49#8, 0x51#8, 0x59#8, 0x61#8, 0x69#8, 0x79#8]
  ++ [0x42#8, 0x52#8, 0x62#8, 0x72#8, 0x4A#8, 0x5A#8, 0x6A#8, 0x7A#8, 0x43#8, 0x53#8, 0x63#8, 0x73#8, 0x4B#8, 0x5B#8]
  ++ [0x6B#8, 0x7B#8, 0x44#8, 0x45#8, 0x4D#8, 0x46#8, 0x56#8, 0x5E#8, 0x47#8, 0x4F#8, 0x57#8, 0x5F#8, 0x67#8, 0x6F#8]
  ++ [0xA0#8, 0xA1#8, 0xA2#8, 0xA3#8, 0xA8#8, 0xA9#8, 0xAA#8, 0xAB#8, 0xB0#8, 0xB1#8, 0xB2#8, 0xB3#8, 0xB8#8, 0xB9#8]
  ++ [0xBA#8, 0xBB#8]

/-- The second bytes the XY page defines, but for 0xCB (R105). -/
def xyDefined : List Byte :=
  [0x09#8, 0x19#8, 0x29#8, 0x39#8, 0x21#8, 0x22#8, 0x23#8, 0x2A#8, 0x2B#8, 0x34#8, 0x35#8, 0x36#8, 0x46#8, 0x4E#8]
  ++ [0x56#8, 0x5E#8, 0x66#8, 0x6E#8, 0x7E#8, 0x70#8, 0x71#8, 0x72#8, 0x73#8, 0x74#8, 0x75#8, 0x77#8, 0x86#8, 0x8E#8]
  ++ [0x96#8, 0x9E#8, 0xA6#8, 0xAE#8, 0xB6#8, 0xBE#8, 0xE1#8, 0xE3#8, 0xE5#8, 0xE9#8, 0xF9#8]

/-- The bytes decode to some instruction. -/
def Decodes (bs : List Byte) : Prop := ∃ i rest, decode bs = .ok (i, rest)

end Sys2Proof.Machine
end

