-- ==== Sys2Proof/Certificates/Slice0/Obligations.lean ====
section
/-! DEFINITION. The statements for the provers. Each says in its docstring which rules of the spec it formalises; a clause that
rests on a decision of the spec's own, or on a choice of the model, is named with its log entry. -/

open Sys2Proof Sys2Proof.Machine

/-- For every state, exec of ldRR, ldRN, ldRHlInd, ldABcInd, ldADeInd and ldAMnInd gives a next state: the destination
register holds the source (a register, the immediate, the memory byte at HL, BC, DE or mn), PC is past the
instruction, every other register, F, every byte of memory and the rest of the state are unchanged, and the
instruction has the encoding of its rule. The trace gains exactly the transactions of the rule, in its order, and a
read uses up the queued input byte it returns (log entries 3, 7 and 9). Memory keeps a byte written where RAM
stands; what stands behind an address, and the byte a read of one without storage gives, is the parameter MEM in the
model's form (log entry 7). (R130, R131, R132, R138, R139, R140.) -/
def Obligations.LoadByteRegister : Prop :=
  ∀ s : State,
  (∀ rd rs, Completes (.ldRR rd rs) [0x40#8 + 8#8 * rd.code + rs.code] s [.ofReg8 rd] [] fun t => t.r8 rd = s.r8 rs) ∧
  (∀ r n, Completes (.ldRN r n) [0x06#8 + 8#8 * r.code, n] s [.ofReg8 r] [] fun t => t.r8 r = n) ∧
  (∀ r, Completes (.ldRHlInd r) [0x46#8 + 8#8 * r.code] s [.ofReg8 r, .memIn, .draws, .trace] [] fun t => t.r8 r = s.readByte s.hl ∧ Transacts (s.byteRead s.hl) s t) ∧
  (Completes .ldABcInd [0x0A#8] s [.a, .memIn, .draws, .trace] [] fun t => t.a = s.readByte s.bc ∧ Transacts (s.byteRead s.bc) s t) ∧
  (Completes .ldADeInd [0x1A#8] s [.a, .memIn, .draws, .trace] [] fun t => t.a = s.readByte s.de ∧ Transacts (s.byteRead s.de) s t) ∧
  (∀ mn, Completes (.ldAMnInd mn) [0x3A#8, loByte mn, hiByte mn] s [.a, .memIn, .draws, .trace] [] fun t => t.a = s.readByte mn ∧ Transacts (s.byteRead mn) s t)

/-- For every state, exec of ldHlIndR, ldHlIndN, ldBcIndA, ldDeIndA and ldMnIndA gives a next state: the byte at HL, BC,
DE or mn reads as the source, one write transaction is emitted, every other byte of memory, every register, F and
the rest of the state are unchanged, PC is past the instruction, and the instruction has the encoding of its rule.
The trace gains exactly the transactions of the rule, in its order, and a read uses up the queued input byte it
returns (log entries 3, 7 and 9). Memory keeps a byte written where RAM stands; what stands behind an address, and
the byte a read of one without storage gives, is the parameter MEM in the model's form (log entry 7). (R134, R136,
R141, R142, R143.) -/
def Obligations.StoreByteMemory : Prop :=
  ∀ s : State,
  (∀ r, Completes (.ldHlIndR r) [0x70#8 + r.code] s [.trace] [s.hl] fun t => Transacts [.memWrite s.hl (s.r8 r)] s t) ∧
  (∀ n, Completes (.ldHlIndN n) [0x36#8, n] s [.trace] [s.hl] fun t => Transacts [.memWrite s.hl n] s t) ∧
  (Completes .ldBcIndA [0x02#8] s [.trace] [s.bc] fun t => Transacts [.memWrite s.bc s.a] s t) ∧
  (Completes .ldDeIndA [0x12#8] s [.trace] [s.de] fun t => Transacts [.memWrite s.de s.a] s t) ∧
  (∀ mn, Completes (.ldMnIndA mn) [0x32#8, loByte mn, hiByte mn] s [.trace] [mn] fun t => Transacts [.memWrite mn s.a] s t)

/-- The address of an indexed operand is IX or IY plus d as a signed number, modulo 65536: that d is signed is the
spec's own decision D7 (log entry 13). For every state, exec of ldRIxInd, ldRIyInd, ldIxIndR, ldIyIndR, ldIxIndN and
ldIyIndN gives a next state in which the register holds the byte at that address, or that byte reads as the source;
nothing else changes but PC, which is past the instruction, and the one write in the trace of bus transactions. The
trace gains exactly the transactions of the rule, in its order, and a read uses up the queued input byte it returns
(log entries 3, 7 and 9). Memory keeps a byte written where RAM stands; what stands behind an address, and the byte
a read of one without storage gives, is the parameter MEM in the model's form (log entry 7). (R98, R133, R135,
R137.) -/
def Obligations.IndexedByteTransfers : Prop :=
  ∀ s : State,
  (∀ d, IsIndexed (s.eaIX d) s.ix d) ∧
  (∀ r d, Completes (.ldRIxInd r d) [0xDD#8, 0x46#8 + 8#8 * r.code, d] s [.ofReg8 r, .memIn, .draws, .trace] [] fun t => t.r8 r = s.readByte (s.eaIX d) ∧ Transacts (s.byteRead (s.eaIX d)) s t) ∧
  (∀ d r, Completes (.ldIxIndR d r) [0xDD#8, 0x70#8 + r.code, d] s [.trace] [s.eaIX d] fun t => Transacts [.memWrite (s.eaIX d) (s.r8 r)] s t) ∧
  (∀ d n, Completes (.ldIxIndN d n) [0xDD#8, 0x36#8, d, n] s [.trace] [s.eaIX d] fun t => Transacts [.memWrite (s.eaIX d) n] s t) ∧
  (∀ d, IsIndexed (s.eaIY d) s.iy d) ∧
  (∀ r d, Completes (.ldRIyInd r d) [0xFD#8, 0x46#8 + 8#8 * r.code, d] s [.ofReg8 r, .memIn, .draws, .trace] [] fun t => t.r8 r = s.readByte (s.eaIY d) ∧ Transacts (s.byteRead (s.eaIY d)) s t) ∧
  (∀ d r, Completes (.ldIyIndR d r) [0xFD#8, 0x70#8 + r.code, d] s [.trace] [s.eaIY d] fun t => Transacts [.memWrite (s.eaIY d) (s.r8 r)] s t) ∧
  (∀ d n, Completes (.ldIyIndN d n) [0xFD#8, 0x36#8, d, n] s [.trace] [s.eaIY d] fun t => Transacts [.memWrite (s.eaIY d) n] s t)

/-- For every state, exec of ldAIReg, ldARReg, ldIRegA and ldRRegA gives a next state: A is the old I or R, with S and Z
of it, P/V = IFF2, H = N = 0 and C unchanged; or I or R is A and F is untouched. Every other register, memory and
the rest of the state are unchanged (U5 and U3 are free where flags are written), PC is past the instruction. (R144,
R145, R146, R147.) -/
def Obligations.SpecialRegisterLoads : Prop :=
  ∀ s : State,
  (Completes .ldAIReg [0xED#8, 0x57#8] s [.a, .f, .draws] [] fun t => t.a = s.iReg ∧ t.flags = ⟨decide (128 ≤ t.a.toNat), decide (t.a.toNat = 0), false, s.iff2, false, s.flags.c⟩) ∧
  (Completes .ldARReg [0xED#8, 0x5F#8] s [.a, .f, .draws] [] fun t => t.a = s.rReg ∧ t.flags = ⟨decide (128 ≤ t.a.toNat), decide (t.a.toNat = 0), false, s.iff2, false, s.flags.c⟩) ∧
  (Completes .ldIRegA [0xED#8, 0x47#8] s [.iReg] [] fun t => t.iReg = s.a) ∧
  (Completes .ldRRegA [0xED#8, 0x4F#8] s [.rReg] [] fun t => t.rReg = s.a)

/-- For every state, exec of ldDdMn, ldIxMn, ldIyMn, ldSpHl, ldSpIx and ldSpIy gives a next state: the word register
holds mn (or SP holds HL, IX, IY), every other register, F, memory and the rest are unchanged, PC is past the
instruction, and the instruction has the encoding of its rule. (R160, R161, R168, R171.) -/
def Obligations.LoadWordRegister : Prop :=
  ∀ s : State,
  (∀ dd mn, Completes (.ldDdMn dd mn) [0x01#8 + 16#8 * dd.code, loByte mn, hiByte mn] s (Loc.ofDD dd) [] fun t => t.rdd dd = mn) ∧
  (∀ mn, Completes (.ldIxMn mn) [0xDD#8, 0x21#8, loByte mn, hiByte mn] s [.ix] [] fun t => t.ix = mn) ∧
  (∀ mn, Completes (.ldIyMn mn) [0xFD#8, 0x21#8, loByte mn, hiByte mn] s [.iy] [] fun t => t.iy = mn) ∧
  (Completes .ldSpHl [0xF9#8] s [.sp] [] fun t => t.sp = s.hl) ∧
  (Completes .ldSpIx [0xDD#8, 0xF9#8] s [.sp] [] fun t => t.sp = s.ix) ∧
  (Completes .ldSpIy [0xFD#8, 0xF9#8] s [.sp] [] fun t => t.sp = s.iy)

/-- For every state, exec of ldHlMnInd, ldDdMnInd, ldIxMnInd and ldIyMnInd gives a next state: the word register is 256
times the byte at mn+1 (modulo 65536) plus the byte at mn; nothing else changes but PC, which is past the
instruction, and the queue of input bytes, the counter and the trace of the two reads. A read of an address of RAM
or ROM gives what memory holds there, of any other address the next queued input byte. That the low byte lies at mn
is the spec's own decision D9 (log entry 14). The trace gains exactly the transactions of the rule, in its order,
and a read uses up the queued input byte it returns (log entries 3, 7 and 9). Memory keeps a byte written where RAM
stands; what stands behind an address, and the byte a read of one without storage gives, is the parameter MEM in the
model's form (log entry 7). (R162, R163, R164, R60, R62, R63.) -/
def Obligations.LoadWordFromMemory : Prop :=
  ∀ s : State,
  (∀ a, s.ReadGives a) ∧
  (∀ mn, Completes (.ldHlMnInd mn) [0x2A#8, loByte mn, hiByte mn] s [.h, .l, .memIn, .draws, .trace] [] fun t => t.hl.toNat = s.wordAt mn ∧ Transacts (s.wordRead mn) s t) ∧
  (∀ dd mn, Completes (.ldDdMnInd dd mn) [0xED#8, 0x4B#8 + 16#8 * dd.code, loByte mn, hiByte mn] s (.memIn :: .draws :: .trace :: Loc.ofDD dd) [] fun t => (t.rdd dd).toNat = s.wordAt mn ∧ Transacts (s.wordRead mn) s t) ∧
  (∀ mn, Completes (.ldIxMnInd mn) [0xDD#8, 0x2A#8, loByte mn, hiByte mn] s [.ix, .memIn, .draws, .trace] [] fun t => t.ix.toNat = s.wordAt mn ∧ Transacts (s.wordRead mn) s t) ∧
  (∀ mn, Completes (.ldIyMnInd mn) [0xFD#8, 0x2A#8, loByte mn, hiByte mn] s [.iy, .memIn, .draws, .trace] [] fun t => t.iy.toNat = s.wordAt mn ∧ Transacts (s.wordRead mn) s t)

/-- For every state, exec of ldMnIndHl, ldMnIndSs, ldMnIndIx and ldMnIndIy gives a next state: the bytes at mn+1 (modulo
65536) and mn make the word stored, written low byte first; every other byte of memory, every register and F are
unchanged, PC is past the instruction. The byte order and the order of the writes are the spec's own decision D9
(log entry 14). The trace gains exactly the transactions of the rule, in its order, and a read uses up the queued
input byte it returns (log entries 3, 7 and 9). Memory keeps a byte written where RAM stands; what stands behind an
address, and the byte a read of one without storage gives, is the parameter MEM in the model's form (log entry 7).
(R165, R166, R167, R60, R63.) -/
def Obligations.StoreWordToMemory : Prop :=
  ∀ s : State,
  (∀ mn, Completes (.ldMnIndHl mn) [0x22#8, loByte mn, hiByte mn] s [.trace] [mn, mn + 1] fun t => StoredWord mn s.hl [] s t) ∧
  (∀ mn ss, Completes (.ldMnIndSs mn ss) [0xED#8, 0x43#8 + 16#8 * ss.code, loByte mn, hiByte mn] s [.trace] [mn, mn + 1] fun t => StoredWord mn (s.rdd ss) [] s t) ∧
  (∀ mn, Completes (.ldMnIndIx mn) [0xDD#8, 0x22#8, loByte mn, hiByte mn] s [.trace] [mn, mn + 1] fun t => StoredWord mn s.ix [] s t) ∧
  (∀ mn, Completes (.ldMnIndIy mn) [0xFD#8, 0x22#8, loByte mn, hiByte mn] s [.trace] [mn, mn + 1] fun t => StoredWord mn s.iy [] s t)

/-- For every state, exec of pushTt (BC, DE, HL, AF), pushIx and pushIy gives a next state: the high byte of the
register is at SP-1 and the low byte at SP-2 (modulo 65536), written in that order, SP is lower by 2; every other
byte of memory, every other register and F are unchanged, PC is past the instruction. PUSH AF stores all eight bits
of F. The trace gains exactly the transactions of the rule, in its order, and a read uses up the queued input byte
it returns (log entries 3, 7 and 9). Memory keeps a byte written where RAM stands; what stands behind an address,
and the byte a read of one without storage gives, is the parameter MEM in the model's form (log entry 7). (R169.) -/
def Obligations.PushStoresWord : Prop :=
  ∀ s : State,
  (∀ tt, Completes (.pushTt tt) [0xC5#8 + 16#8 * tt.code] s [.sp, .trace] [s.sp - 1, s.sp - 2] fun t => PushedWord (s.rtt tt) [] s t) ∧
  (Completes .pushIx [0xDD#8, 0xE5#8] s [.sp, .trace] [s.sp - 1, s.sp - 2] fun t => PushedWord s.ix [] s t) ∧
  (Completes .pushIy [0xFD#8, 0xE5#8] s [.sp, .trace] [s.sp - 1, s.sp - 2] fun t => PushedWord s.iy [] s t)

/-- For every state, exec of popTt (BC, DE, HL, AF), popIx and popIy gives a next state: the register is 256 times the
byte at SP+1 plus the byte at SP, SP is higher by 2 (modulo 65536), every other register, memory and the rest are
unchanged (F only by POP AF), PC is past the instruction. That POP AF replaces all eight bits of F is not what
Y80DOC prints (its flag lines say "Unaffected"): it is the inference from R22 that R170 marks as its own. The trace
gains exactly the transactions of the rule, in its order, and a read uses up the queued input byte it returns (log
entries 3, 7 and 9). Memory keeps a byte written where RAM stands; what stands behind an address, and the byte a
read of one without storage gives, is the parameter MEM in the model's form (log entry 7). (R22, R170, R65.) -/
def Obligations.PopLoadsWord : Prop :=
  ∀ s : State,
  (∀ tt, Completes (.popTt tt) [0xC1#8 + 16#8 * tt.code] s (.sp :: .memIn :: .draws :: .trace :: Loc.ofTT tt) [] fun t => (t.rtt tt).toNat = s.wordAt s.sp ∧ t.sp = s.sp + 2 ∧ Transacts (s.wordRead s.sp) s t) ∧
  (Completes .popIx [0xDD#8, 0xE1#8] s [.ix, .sp, .memIn, .draws, .trace] [] fun t => t.ix.toNat = s.wordAt s.sp ∧ t.sp = s.sp + 2 ∧ Transacts (s.wordRead s.sp) s t) ∧
  (Completes .popIy [0xFD#8, 0xE1#8] s [.iy, .sp, .memIn, .draws, .trace] [] fun t => t.iy.toNat = s.wordAt s.sp ∧ t.sp = s.sp + 2 ∧ Transacts (s.wordRead s.sp) s t)

/-- For every state, exec of exAfAf, exx and exDeHl gives a next state: A and F (all eight bits) change places with A'
and F'; B, C, D, E, H, L with B' to L'; or DE with HL of the active bank. Every other register, memory and the rest
are unchanged, PC is past the instruction. The exchange is written as a swap of values (D18, log entry 28), which no
program can tell from renaming. (R173, R174, R175.) -/
def Obligations.ExchangeRegisters : Prop :=
  ∀ s : State,
  (Completes .exAfAf [0x08#8] s [.a, .f, .aAlt, .fAlt] [] fun t => t.a = s.aAlt ∧ t.f = s.fAlt ∧ t.aAlt = s.a ∧ t.fAlt = s.f) ∧
  (Completes .exx [0xD9#8] s [.b, .c, .d, .e, .h, .l, .bAlt, .cAlt, .dAlt, .eAlt, .hAlt, .lAlt] [] fun t => t.b = s.bAlt ∧ t.c = s.cAlt ∧ t.d = s.dAlt ∧ t.e = s.eAlt ∧ t.h = s.hAlt ∧ t.l = s.lAlt ∧
    t.bAlt = s.b ∧ t.cAlt = s.c ∧ t.dAlt = s.d ∧ t.eAlt = s.e ∧ t.hAlt = s.h ∧ t.lAlt = s.l) ∧
  (Completes .exDeHl [0xEB#8] s [.d, .e, .h, .l] [] fun t => t.d = s.h ∧ t.e = s.l ∧ t.h = s.d ∧ t.l = s.e)

/-- For every state, exec of exSpIndHl, exSpIndIx and exSpIndIy gives a next state: the register is the word that was at
SP (low byte at SP, high byte at SP+1), that place is written with the old register, SP, F and every other register
and byte of memory are unchanged, PC is past the instruction. The order of the transactions (both reads, then the
low write, then the high write) is the spec's decision D9 (log entry 14). The trace gains exactly the transactions
of the rule, in its order, and a read uses up the queued input byte it returns (log entries 3, 7 and 9). Memory
keeps a byte written where RAM stands; what stands behind an address, and the byte a read of one without storage
gives, is the parameter MEM in the model's form (log entry 7). (R176, R177, R60.) -/
def Obligations.ExchangeWithStackTop : Prop :=
  ∀ s : State,
  (Completes .exSpIndHl [0xE3#8] s [.h, .l, .memIn, .draws, .trace] [s.sp, s.sp + 1] fun t => t.hl.toNat = s.wordAt s.sp ∧ StoredWord s.sp s.hl (s.wordRead s.sp) s t) ∧
  (Completes .exSpIndIx [0xDD#8, 0xE3#8] s [.ix, .memIn, .draws, .trace] [s.sp, s.sp + 1] fun t => t.ix.toNat = s.wordAt s.sp ∧ StoredWord s.sp s.ix (s.wordRead s.sp) s t) ∧
  (Completes .exSpIndIy [0xFD#8, 0xE3#8] s [.iy, .memIn, .draws, .trace] [s.sp, s.sp + 1] fun t => t.iy.toNat = s.wordAt s.sp ∧ StoredWord s.sp s.iy (s.wordRead s.sp) s t)

/-- For every state and every pair of registers of the tt field, exec of pushTt and then exec of popTt both give next
states; in the last SP and every register but the second are as before, memory has changed at SP-1 and SP-2 only
and, where RAM stands behind those two, the second register holds the word of the first. It follows from the stack
primitives of R65. Memory keeps a byte written where RAM stands; what stands behind an address, and the byte a read
of one without storage gives, is the parameter MEM in the model's form (log entry 7). (R65, R169, R170.) -/
def Obligations.PushThenPopMovesWord : Prop :=
  ∀ (s : State) (x y : RegTT), ∃ t u, exec (.pushTt x) s = .next t ∧ exec (.popTt y) t = .next u ∧
    Unchanged (.pc :: .memIn :: .draws :: .trace :: Loc.ofTT y) s u ∧ MemUnchanged [s.sp - 1, s.sp - 2] s u ∧
    (s.keeps (s.sp - 1) = true → s.keeps (s.sp - 2) = true → u.rtt y = s.rtt x)

/-- For every state and each of the five operand forms of ADD A and ADC A (addAR, addAHlInd, addAN, addAIxInd,
addAIyInd, adcAR, adcAHlInd, adcAN, adcAIxInd, adcAIyInd), exec gives a next state: A is the sum with the carry in
modulo 256; S, Z, H (carry out of bit 3), P/V, C (carry out of bit 7) are those of the sum, N = 0; every other
register, memory and the rest are unchanged (U5 and U3 are free), PC is past the instruction. That P/V is signed
overflow is the spec's own D21 (log entry 30), that d is signed its D7 (log entry 13). The trace gains exactly the
transactions of the rule, in its order, and a read uses up the queued input byte it returns (log entries 3, 7 and
9). Memory keeps a byte written where RAM stands; what stands behind an address, and the byte a read of one without
storage gives, is the parameter MEM in the model's form (log entry 7). (R190, R191, R192, R8, R98.) -/
def Obligations.AddToAccumulator : Prop :=
  ∀ s : State,
  AluForms s .addAR .addAHlInd .addAN .addAIxInd .addAIyInd 0x80#8 (AddsToA s false) ∧
  AluForms s .adcAR .adcAHlInd .adcAN .adcAIxInd .adcAIyInd 0x88#8 (AddsToA s s.flags.c)

/-- For every state and each of the five operand forms of SUB A and SBC A (subAR, subAHlInd, subAN, subAIxInd,
subAIyInd, sbcAR, sbcAHlInd, sbcAN, sbcAIxInd, sbcAIyInd), exec gives a next state: A is the difference with the
borrow in modulo 256; S, Z, H (borrow out of bit 3), P/V and C (borrow out of bit 7) are those of the difference, N
= 1 (90_conflicts.md C8); nothing else changes but PC and U5, U3, which are free. That P/V is signed overflow is the
spec's own D21 (log entry 30), that d is signed its D7 (log entry 13). The trace gains exactly the transactions of
the rule, in its order, and a read uses up the queued input byte it returns (log entries 3, 7 and 9). Memory keeps a
byte written where RAM stands; what stands behind an address, and the byte a read of one without storage gives, is
the parameter MEM in the model's form (log entry 7). (R190, R193, R194, R9, R98.) -/
def Obligations.SubtractFromAccumulator : Prop :=
  ∀ s : State,
  AluForms s .subAR .subAHlInd .subAN .subAIxInd .subAIyInd 0x90#8 (SubtractsFromA s false) ∧
  AluForms s .sbcAR .sbcAHlInd .sbcAN .sbcAIxInd .sbcAIyInd 0x98#8 (SubtractsFromA s s.flags.c)

/-- For every state and each of the five operand forms of CP A (cpAR, cpAHlInd, cpAN, cpAIxInd, cpAIyInd), exec gives a
next state: A is unchanged, F has the flags of A minus the operand, Z = 1 exactly when A is the operand and C = 1
exactly when A is smaller as unsigned numbers; nothing else changes but PC and U5, U3, which are free. P/V as signed
overflow is the spec's own D21 (log entry 30), the signed d its D7 (log entry 13). The trace gains exactly the
transactions of the rule, in its order, and a read uses up the queued input byte it returns (log entries 3, 7 and
9). Memory keeps a byte written where RAM stands; what stands behind an address, and the byte a read of one without
storage gives, is the parameter MEM in the model's form (log entry 7). (R190, R198, R9, R98.) -/
def Obligations.CompareWithAccumulator : Prop :=
  ∀ s : State,
  AluForms s .cpAR .cpAHlInd .cpAN .cpAIxInd .cpAIyInd 0xB8#8 (ComparesWithA s)

/-- For every state and each of the five operand forms of AND A, XOR A and OR A (andAR, andAHlInd, andAN, andAIxInd,
andAIyInd, xorAR, xorAHlInd, xorAN, xorAIxInd, xorAIyInd, orAR, orAHlInd, orAN, orAIxInd, orAIyInd), exec gives a
next state: each bit of A is the combination of the bits, S and Z are of the result, P/V is set when the result has
an even number of 1 bits, H is 1 for AND and 0 for XOR and OR, N = C = 0; nothing else changes but PC and U5, U3,
which are free. The signed d of the indexed forms is the spec's own D7 (log entry 13). The trace gains exactly the
transactions of the rule, in its order, and a read uses up the queued input byte it returns (log entries 3, 7 and
9). Memory keeps a byte written where RAM stands; what stands behind an address, and the byte a read of one without
storage gives, is the parameter MEM in the model's form (log entry 7). (R190, R195, R196, R197, R7, R98.) -/
def Obligations.LogicOnAccumulator : Prop :=
  ∀ s : State,
  AluForms s .andAR .andAHlInd .andAN .andAIxInd .andAIyInd 0xA0#8 (CombinesWithA s and true) ∧
  AluForms s .xorAR .xorAHlInd .xorAN .xorAIxInd .xorAIyInd 0xA8#8 (CombinesWithA s xor false) ∧
  AluForms s .orAR .orAHlInd .orAN .orAIxInd .orAIyInd 0xB0#8 (CombinesWithA s or false)

/-- For every state, exec of incR, incHlInd, incIxInd, incIyInd, decR, decHlInd, decIxInd and decIyInd gives a next
state: the register or the memory byte is one more or less modulo 256, S and Z are of the result, H is set from a
low nibble of 15 (INC) or 0 (DEC), P/V from 127 (INC) or 128 (DEC), N is 0 or 1, C is unchanged; a memory form reads
and writes one address; nothing else changes but PC and U5, U3, which are free. The trace gains exactly the
transactions of the rule, in its order, and a read uses up the queued input byte it returns (log entries 3, 7 and
9). Memory keeps a byte written where RAM stands; what stands behind an address, and the byte a read of one without
storage gives, is the parameter MEM in the model's form (log entry 7). (R199, R200, R98.) -/
def Obligations.IncrementDecrementByte : Prop :=
  ∀ s : State,
  (∀ r, StepsRegister (.incR r) [0x04#8 + 8#8 * r.code] s r IsIncrement) ∧
  StepsMemory .incHlInd [0x34#8] s s.hl IsIncrement ∧
  (∀ d, StepsMemory (.incIxInd d) [0xDD#8, 0x34#8, d] s (s.eaIX d) IsIncrement) ∧
  (∀ d, StepsMemory (.incIyInd d) [0xFD#8, 0x34#8, d] s (s.eaIY d) IsIncrement) ∧
  (∀ r, StepsRegister (.decR r) [0x05#8 + 8#8 * r.code] s r IsDecrement) ∧
  StepsMemory .decHlInd [0x35#8] s s.hl IsDecrement ∧
  (∀ d, StepsMemory (.decIxInd d) [0xDD#8, 0x35#8, d] s (s.eaIX d) IsDecrement) ∧
  (∀ d, StepsMemory (.decIyInd d) [0xFD#8, 0x35#8, d] s (s.eaIY d) IsDecrement)

/-- For every state exec of daa gives a next state in which S, Z and P/V (parity) are those of the new A and N is
unchanged, whatever H is; if a row of the table fits N, C, the two nibbles of A and H, then A is A plus the row's
number modulo 256 and C is the row's. Nothing else changes but PC, U5 and U3. That H, and A and C outside the table,
are any value is the spec's decision D3 (log entry 21). (R201.) -/
def Obligations.DecimalAdjustTable : Prop :=
  ∀ s : State,
  Completes .daa [0x27#8] s [.a, .f, .draws] [] fun t =>
    t.flags.s = decide (128 ≤ t.a.toNat) ∧ t.flags.z = decide (t.a.toNat = 0) ∧ t.flags.pv = evenOnes t.a ∧
    t.flags.n = s.flags.n ∧
    ∀ row ∈ daaTable, row.n = s.flags.n → row.c = s.flags.c → row.h = s.flags.h →
      row.hiMin ≤ s.a.toNat / 16 → s.a.toNat / 16 ≤ row.hiMax → row.loMin ≤ s.a.toNat % 16 → s.a.toNat % 16 ≤ row.loMax →
      t.a.toNat = (s.a.toNat + row.add.toNat) % 256 ∧ t.flags.c = row.cAfter

/-- For every state whose A is the packed-BCD byte of x below 100, every y below 100 and whatever C is: exec of adcAN
with the packed-BCD byte of y, then exec of daa, both give next states, and in the last A is the packed-BCD byte of
(x + y + C) modulo 100 and C says whether the sum reached 100; the same for sbcAN with the difference and the
decimal borrow. It is the derived property that R201 states of its table. (R201, R192, R194.) -/
def Obligations.DecimalArithmeticIsCorrect : Prop :=
  ∀ (s : State) (x y : Nat), x < 100 → y < 100 → s.a = packedBcd x →
  (∃ t u, exec (.adcAN (packedBcd y)) s = .next t ∧ exec .daa t = .next u ∧
    u.a = packedBcd ((x + y + s.flags.c.toNat) % 100) ∧ u.flags.c = decide (100 ≤ x + y + s.flags.c.toNat)) ∧
  (∃ t u, exec (.sbcAN (packedBcd y)) s = .next t ∧ exec .daa t = .next u ∧
    u.a = packedBcd ((x + 100 - y + 100 - s.flags.c.toNat) % 100) ∧ u.flags.c = decide (x < y + s.flags.c.toNat))

/-- For every state, exec of cpl, ccf and scf gives a next state: CPL gives A its complement and sets H and N; CCF gives
H the old C, complements C and clears N; SCF sets C and clears H and N. The other flags, every other register,
memory and the rest are unchanged (U5 and U3 are free), PC is past the instruction. (R202, R204, R205.) -/
def Obligations.ComplementAndCarryFlags : Prop :=
  ∀ s : State,
  (Completes .cpl [0x2F#8] s [.a, .f, .draws] [] fun t => t.a.toNat = 255 - s.a.toNat ∧ t.flags = { s.flags with h := true, n := true }) ∧
  (Completes .ccf [0x3F#8] s [.f, .draws] [] fun t => t.flags = { s.flags with h := s.flags.c, n := false, c := !s.flags.c }) ∧
  (Completes .scf [0x37#8] s [.f, .draws] [] fun t => t.flags = { s.flags with h := false, n := false, c := true })

/-- For every state, exec of neg gives a next state: A is 256 - A modulo 256, S and Z are of it, H is set when the old
low nibble is not 0, P/V when the old A was 0x80, N = 1, C when the old A was not 0; nothing else changes but PC and
U5, U3. Its encoding ED 44 and N = 1 follow 90_conflicts.md C7 and C8 (log entry 22). (R203.) -/
def Obligations.NegateAccumulator : Prop :=
  ∀ s : State,
  (Completes .neg [0xED#8, 0x44#8] s [.a, .f, .draws] [] fun t => t.a.toNat = (256 - s.a.toNat) % 256 ∧
    t.flags = ⟨decide (128 ≤ t.a.toNat), decide (t.a.toNat = 0), decide (s.a.toNat % 16 ≠ 0), decide (s.a.toNat = 128), true,
      decide (s.a.toNat ≠ 0)⟩)

/-- For every state, exec of addHlSs, addIxXx and addIyYy gives a next state: the destination is the sum modulo 65536, H
is the carry out of bit 11, N = 0, C the carry out of bit 15, S, Z and P/V are unchanged; nothing else changes but
PC and U5, U3, which are free. The second bytes of the IX and IY forms follow 90_conflicts.md C2 (log entry 22).
(R230, R231, R10.) -/
def Obligations.AddWordRegisters : Prop :=
  ∀ s : State,
  (∀ ss, Completes (.addHlSs ss) [0x09#8 + 16#8 * ss.code] s [.h, .l, .f, .draws] [] fun t => t.hl.toNat = (s.hl.toNat + (s.rdd ss).toNat) % 65536 ∧
    t.flags = { s.flags with h := decide (4095 < s.hl.toNat % 4096 + (s.rdd ss).toNat % 4096), n := false, c := decide (65535 < s.hl.toNat + (s.rdd ss).toNat) }) ∧
  (∀ xx, Completes (.addIxXx xx) [0xDD#8, 0x09#8 + 16#8 * xx.code] s [.ix, .f, .draws] [] fun t => t.ix.toNat = (s.ix.toNat + (s.rxx xx).toNat) % 65536 ∧
    t.flags = { s.flags with h := decide (4095 < s.ix.toNat % 4096 + (s.rxx xx).toNat % 4096), n := false, c := decide (65535 < s.ix.toNat + (s.rxx xx).toNat) }) ∧
  (∀ yy, Completes (.addIyYy yy) [0xFD#8, 0x09#8 + 16#8 * yy.code] s [.iy, .f, .draws] [] fun t => t.iy.toNat = (s.iy.toNat + (s.ryy yy).toNat) % 65536 ∧
    t.flags = { s.flags with h := decide (4095 < s.iy.toNat % 4096 + (s.ryy yy).toNat % 4096), n := false, c := decide (65535 < s.iy.toNat + (s.ryy yy).toNat) })

/-- For every state, exec of adcHlSs and sbcHlSs gives a next state: HL is the sum or difference with the carry modulo
65536, S and Z are of all sixteen bits, H is the carry or borrow of bit 11, P/V signed overflow, N is 0 or 1
(90_conflicts.md C8), C the carry or borrow of bit 15 (C9); nothing else changes but PC and U5, U3, which are free.
P/V as signed overflow is the spec's own D21 (log entry 30). (R232, R233, R10, R11.) -/
def Obligations.WordArithmeticWithCarry : Prop :=
  ∀ s : State,
  (∀ ss, Completes (.adcHlSs ss) [0xED#8, 0x4A#8 + 16#8 * ss.code] s [.h, .l, .f, .draws] [] fun t => t.hl.toNat = (s.hl.toNat + (s.rdd ss).toNat + s.flags.c.toNat) % 65536 ∧
    t.flags =
      { s := decide (32768 ≤ t.hl.toNat)
        z := decide (t.hl.toNat = 0)
        h := decide (4095 < s.hl.toNat % 4096 + (s.rdd ss).toNat % 4096 + s.flags.c.toNat)
        pv := decide (s.hl.toInt + (s.rdd ss).toInt + s.flags.c.toNat < -32768 ∨
          32767 < s.hl.toInt + (s.rdd ss).toInt + s.flags.c.toNat)
        n := false
        c := decide (65535 < s.hl.toNat + (s.rdd ss).toNat + s.flags.c.toNat) }) ∧
  (∀ ss, Completes (.sbcHlSs ss) [0xED#8, 0x42#8 + 16#8 * ss.code] s [.h, .l, .f, .draws] [] fun t => (t.hl.toNat : Int) = ((s.hl.toNat : Int) - (s.rdd ss).toNat - s.flags.c.toNat) % 65536 ∧
    t.flags =
      { s := decide (32768 ≤ t.hl.toNat)
        z := decide (t.hl.toNat = 0)
        h := decide (s.hl.toNat % 4096 < (s.rdd ss).toNat % 4096 + s.flags.c.toNat)
        pv := decide (s.hl.toInt - (s.rdd ss).toInt - s.flags.c.toNat < -32768 ∨
          32767 < s.hl.toInt - (s.rdd ss).toInt - s.flags.c.toNat)
        n := true
        c := decide (s.hl.toNat < (s.rdd ss).toNat + s.flags.c.toNat) })

/-- For every state, exec of incSs, incIx, incIy, decSs, decIx and decIy gives a next state: the word register is one
more or less modulo 65536, F (all eight bits), every other register, memory and the rest are unchanged, PC is past
the instruction. (R234, R235, R236, R237.) -/
def Obligations.IncrementDecrementWord : Prop :=
  ∀ s : State,
  (∀ dd, Completes (.incSs dd) [0x03#8 + 16#8 * dd.code] s (Loc.ofDD dd) [] fun t => (t.rdd dd).toNat = ((s.rdd dd).toNat + 1) % 65536) ∧
  (Completes .incIx [0xDD#8, 0x23#8] s [.ix] [] fun t => t.ix.toNat = (s.ix.toNat + 1) % 65536) ∧
  (Completes .incIy [0xFD#8, 0x23#8] s [.iy] [] fun t => t.iy.toNat = (s.iy.toNat + 1) % 65536) ∧
  (∀ dd, Completes (.decSs dd) [0x0B#8 + 16#8 * dd.code] s (Loc.ofDD dd) [] fun t => ((t.rdd dd).toNat : Int) = (((s.rdd dd).toNat : Int) - 1) % 65536) ∧
  (Completes .decIx [0xDD#8, 0x2B#8] s [.ix] [] fun t => (t.ix.toNat : Int) = ((s.ix.toNat : Int) - 1) % 65536) ∧
  (Completes .decIy [0xFD#8, 0x2B#8] s [.iy] [] fun t => (t.iy.toNat : Int) = ((s.iy.toNat : Int) - 1) % 65536)

/-- For every state, exec of rlca, rla, rrca and rra gives a next state: A is rotated by one place, left or right,
circular or through the old C, C is the bit that left A, H = N = 0, S, Z and P/V are unchanged; nothing else changes
but PC and U5, U3, which are free. (R251, R252, R253, R254.) -/
def Obligations.RotateAccumulator : Prop :=
  ∀ s : State,
  (Completes .rlca [0x07#8] s [.a, .f, .draws] [] fun t => t.a.toNat = (2 * s.a.toNat + s.a.toNat / 128) % 256 ∧
    t.flags = { s.flags with h := false, n := false, c := decide (128 ≤ s.a.toNat) }) ∧
  (Completes .rla [0x17#8] s [.a, .f, .draws] [] fun t => t.a.toNat = (2 * s.a.toNat + s.flags.c.toNat) % 256 ∧
    t.flags = { s.flags with h := false, n := false, c := decide (128 ≤ s.a.toNat) }) ∧
  (Completes .rrca [0x0F#8] s [.a, .f, .draws] [] fun t => t.a.toNat = s.a.toNat / 2 + 128 * (s.a.toNat % 2) ∧
    t.flags = { s.flags with h := false, n := false, c := decide (s.a.toNat % 2 = 1) }) ∧
  (Completes .rra [0x1F#8] s [.a, .f, .draws] [] fun t => t.a.toNat = s.a.toNat / 2 + 128 * s.flags.c.toNat ∧
    t.flags = { s.flags with h := false, n := false, c := decide (s.a.toNat % 2 = 1) })

/-- For every state and each of the four operand forms of RLC, RL, RRC, RR, SLA, SRA and SRL (rlcR, rlcHlInd, rlcIxInd,
rlcIyInd, rlR, rlHlInd, rlIxInd, rlIyInd, rrcR, rrcHlInd, rrcIxInd, rrcIyInd, rrR, rrHlInd, rrIxInd, rrIyInd, slaR,
slaHlInd, slaIxInd, slaIyInd, sraR, sraHlInd, sraIxInd, sraIyInd, srlR, srlHlInd, srlIxInd, srlIyInd), exec gives a
next state: the register or the byte at the operand's address is the rotated or shifted byte, S, Z and parity are of
it, H = N = 0, C is the bit shifted out; a memory form reads and writes one address; nothing else changes but PC and
U5, U3. The signed d is the spec's own D7 (log entry 13). The trace gains exactly the transactions of the rule, in
its order, and a read uses up the queued input byte it returns (log entries 3, 7 and 9). Memory keeps a byte written
where RAM stands; what stands behind an address, and the byte a read of one without storage gives, is the parameter
MEM in the model's form (log entry 7). (R250, R255, R256, R257, R258, R259, R260, R261, R7, R98.) -/
def Obligations.RotateShiftForms : Prop :=
  ∀ s : State,
  ShiftForms s .rlcR .rlcHlInd .rlcIxInd .rlcIyInd 0x00#8 (fun v => (2 * v + v / 128) % 256)
    (fun v => decide (128 ≤ v)) ∧
  ShiftForms s .rlR .rlHlInd .rlIxInd .rlIyInd 0x10#8 (fun v => (2 * v + s.flags.c.toNat) % 256)
    (fun v => decide (128 ≤ v)) ∧
  ShiftForms s .rrcR .rrcHlInd .rrcIxInd .rrcIyInd 0x08#8 (fun v => v / 2 + 128 * (v % 2))
    (fun v => decide (v % 2 = 1)) ∧
  ShiftForms s .rrR .rrHlInd .rrIxInd .rrIyInd 0x18#8 (fun v => v / 2 + 128 * s.flags.c.toNat)
    (fun v => decide (v % 2 = 1)) ∧
  ShiftForms s .slaR .slaHlInd .slaIxInd .slaIyInd 0x20#8 (fun v => 2 * v % 256)
    (fun v => decide (128 ≤ v)) ∧
  ShiftForms s .sraR .sraHlInd .sraIxInd .sraIyInd 0x28#8 (fun v => v / 2 + 128 * (v / 128))
    (fun v => decide (v % 2 = 1)) ∧
  ShiftForms s .srlR .srlHlInd .srlIxInd .srlIyInd 0x38#8 (fun v => v / 2)
    (fun v => decide (v % 2 = 1))

/-- For every state, exec of rld and rrd gives a next state: the low digit of A, and the two digits of the byte at HL,
change places as the rule says, the high digit of A stays, S, Z and parity are of the new A, H = N = 0, C is
unchanged; one byte is written, at HL; nothing else changes but PC and U5, U3, which are free. The trace gains
exactly the transactions of the rule, in its order, and a read uses up the queued input byte it returns (log entries
3, 7 and 9). Memory keeps a byte written where RAM stands; what stands behind an address, and the byte a read of one
without storage gives, is the parameter MEM in the model's form (log entry 7). (R262, R263.) -/
def Obligations.DigitRotates : Prop :=
  ∀ s : State,
  (Completes .rld [0xED#8, 0x6F#8] s [.a, .f, .memIn, .draws, .trace] [s.hl] fun t => t.a.toNat = 16 * (s.a.toNat / 16) + (s.readByte s.hl).toNat / 16 ∧ t.flags = ⟨decide (128 ≤ t.a.toNat), decide (t.a.toNat = 0), false, evenOnes t.a, false, s.flags.c⟩ ∧
    ∃ r : Byte, r.toNat = 16 * ((s.readByte s.hl).toNat % 16) + s.a.toNat % 16 ∧
      Transacts (s.byteRead s.hl ++ [.memWrite s.hl r]) s t) ∧
  (Completes .rrd [0xED#8, 0x67#8] s [.a, .f, .memIn, .draws, .trace] [s.hl] fun t => t.a.toNat = 16 * (s.a.toNat / 16) + (s.readByte s.hl).toNat % 16 ∧ t.flags = ⟨decide (128 ≤ t.a.toNat), decide (t.a.toNat = 0), false, evenOnes t.a, false, s.flags.c⟩ ∧
    ∃ r : Byte, r.toNat = 16 * (s.a.toNat % 16) + (s.readByte s.hl).toNat / 16 ∧
      Transacts (s.byteRead s.hl ++ [.memWrite s.hl r]) s t)

/-- For every state, exec of bitR, bitHlInd, bitIxInd and bitIyInd gives a next state: Z is the complement of bit b of
the operand, H = 1, N = 0, S, P/V and C are unchanged; no register and no byte of memory is written; nothing else
changes but PC and U5, U3, which are free. The signed d is the spec's own D7 (log entry 13). The trace gains exactly
the transactions of the rule, in its order, and a read uses up the queued input byte it returns (log entries 3, 7
and 9). Memory keeps a byte written where RAM stands; what stands behind an address, and the byte a read of one
without storage gives, is the parameter MEM in the model's form (log entry 7). (R250, R264, R98.) -/
def Obligations.BitTestFlags : Prop :=
  ∀ s : State,
  (∀ b r, Completes (.bitR b r) [0xCB#8, 0x40#8 + 8#8 * BitVec.ofNat 8 b + r.code] s [.f, .memIn, .draws, .trace] [] fun t => t.flags = { s.flags with z := !(s.r8 r).getLsbD b, h := true, n := false } ∧
    Transacts [] s t) ∧
  (∀ b, Completes (.bitHlInd b) [0xCB#8, 0x46#8 + 8#8 * BitVec.ofNat 8 b] s [.f, .memIn, .draws, .trace] [] fun t => t.flags = { s.flags with z := !(s.readByte s.hl).getLsbD b, h := true, n := false } ∧
    Transacts (s.byteRead s.hl) s t) ∧
  (∀ b d, Completes (.bitIxInd b d) [0xDD#8, 0xCB#8, d, 0x46#8 + 8#8 * BitVec.ofNat 8 b] s [.f, .memIn, .draws, .trace] [] fun t => t.flags = { s.flags with z := !(s.readByte (s.eaIX d)).getLsbD b, h := true, n := false } ∧
    Transacts (s.byteRead (s.eaIX d)) s t) ∧
  (∀ b d, Completes (.bitIyInd b d) [0xFD#8, 0xCB#8, d, 0x46#8 + 8#8 * BitVec.ofNat 8 b] s [.f, .memIn, .draws, .trace] [] fun t => t.flags = { s.flags with z := !(s.readByte (s.eaIY d)).getLsbD b, h := true, n := false } ∧
    Transacts (s.byteRead (s.eaIY d)) s t)

/-- For every state and each of the four operand forms of SET and RES (setR, setHlInd, setIxInd, setIyInd, resR,
resHlInd, resIxInd, resIyInd), exec gives a next state: bit b of the register or of the byte at the operand's
address is 1 (SET) or 0 (RES), its other bits are as before, a memory form always writes, F and everything else is
unchanged, PC is past the instruction. The signed d is the spec's own D7 (log entry 13). The trace gains exactly the
transactions of the rule, in its order, and a read uses up the queued input byte it returns (log entries 3, 7 and
9). Memory keeps a byte written where RAM stands; what stands behind an address, and the byte a read of one without
storage gives, is the parameter MEM in the model's form (log entry 7). (R250, R265, R266, R98.) -/
def Obligations.BitSetReset : Prop :=
  ∀ s : State,
  BitForms s .setR .setHlInd .setIxInd .setIyInd 0xC0#8 true ∧
  BitForms s .resR .resHlInd .resIxInd .resIyInd 0x80#8 false

/-- For every state, exec of ldi and ldd gives a next state: the byte at DE reads as the byte that was at HL, BC is one
less, DE and HL are one more (LDI) or less (LDD) modulo 65536, H = N = 0, P/V says whether BC after is not 0, S, Z
and C are unchanged; every other byte of memory, every other register and the rest are unchanged (U5, U3 free), PC
is past the instruction. The trace gains exactly the transactions of the rule, in its order, and a read uses up the
queued input byte it returns (log entries 3, 7 and 9). Memory keeps a byte written where RAM stands; what stands
behind an address, and the byte a read of one without storage gives, is the parameter MEM in the model's form (log
entry 7). (R291, R293.) -/
def Obligations.BlockTransferIteration : Prop :=
  ∀ s : State,
  TransfersBlock .ldi [0xED#8, 0xA0#8] s 1#16 ∧
  TransfersBlock .ldd [0xED#8, 0xA8#8] s (-1#16)

/-- For every state, exec of cpi and cpd gives a next state: S, Z and H are of A minus the byte at HL, P/V says whether
BC after is not 0, N = 1, C is unchanged; BC is one less, HL one more (CPI) or less (CPD) modulo 65536; A, memory,
every other register and the rest are unchanged (U5, U3 free), PC is past the instruction. The trace gains exactly
the transactions of the rule, in its order, and a read uses up the queued input byte it returns (log entries 3, 7
and 9). Memory keeps a byte written where RAM stands; what stands behind an address, and the byte a read of one
without storage gives, is the parameter MEM in the model's form (log entry 7). (R295, R297.) -/
def Obligations.BlockCompareIteration : Prop :=
  ∀ s : State,
  ComparesBlock .cpi [0xED#8, 0xA1#8] s 1#16 ∧
  ComparesBlock .cpd [0xED#8, 0xA9#8] s (-1#16)

/-- For every state, exec of ldir, lddr, cpir, cpdr, inir, indr, otir and otdr gives the next state of ldi, ldd, cpi,
cpd, ini, ind, outi and outd, but for PC and the model's own field repeating (log entry 17): PC stays at the
instruction, and repeating is set, while, in that next state, BC is not 0 (LDIR, LDDR), BC is not 0 and Z = 0 (CPIR,
CPDR), or B is not 0 (the input and output forms); else the state is that of the sibling, with PC past it. One
iteration a step is the spec's decision D15 (log entry 17), the test after the decrement its D28 (log entry 20).
(R290, R292, R294, R296, R298, R345, R347, R349, R351.) -/
def Obligations.BlockRepeatIteration : Prop :=
  ∀ s : State,
  RepeatsAs .ldir .ldi [0xED#8, 0xB0#8] s (fun t => t.bc != 0#16) ∧
  RepeatsAs .lddr .ldd [0xED#8, 0xB8#8] s (fun t => t.bc != 0#16) ∧
  RepeatsAs .cpir .cpi [0xED#8, 0xB1#8] s (fun t => t.bc != 0#16 && !t.flags.z) ∧
  RepeatsAs .cpdr .cpd [0xED#8, 0xB9#8] s (fun t => t.bc != 0#16 && !t.flags.z) ∧
  RepeatsAs .inir .ini [0xED#8, 0xB2#8] s (fun t => t.b != 0#8) ∧
  RepeatsAs .indr .ind [0xED#8, 0xBA#8] s (fun t => t.b != 0#8) ∧
  RepeatsAs .otir .outi [0xED#8, 0xB3#8] s (fun t => t.b != 0#8) ∧
  RepeatsAs .otdr .outd [0xED#8, 0xBB#8] s (fun t => t.b != 0#8)

/-- For every state, exec of jpMn, jpCcMn, jpHl, jpIx and jpIy gives a next state: PC is mn, HL, IX or IY (memory at HL
is not read), for the conditional form only when the bit of F that the condition names has the value it names, else
PC is past the instruction; every register, F, memory and the rest are unchanged. (R310, R311, R312, R313.) -/
def Obligations.AbsoluteJumps : Prop :=
  ∀ s : State,
  (∀ mn, Runs (.jpMn mn) [0xC3#8, loByte mn, hiByte mn] s [] [] fun t => t.pc = mn) ∧
  (∀ cc mn, Runs (.jpCcMn cc mn) [0xC2#8 + 8#8 * cc.code, loByte mn, hiByte mn] s [] [] fun t => t.pc = if s.meets (condBit cc) then mn else s.pc + 3) ∧
  (Runs .jpHl [0xE9#8] s [] [] fun t => t.pc = s.hl) ∧
  (Runs .jpIx [0xDD#8, 0xE9#8] s [] [] fun t => t.pc = s.ix) ∧
  (Runs .jpIy [0xFD#8, 0xE9#8] s [] [] fun t => t.pc = s.iy)

/-- For every state, exec of jr, jrCc and djnz gives a next state: PC is the instruction's own address plus e modulo
65536 when the jump is taken (always; when the bit of F the condition names has its value; when B after the
decrement is not 0), else PC is past the two bytes; B is one less modulo 256 for DJNZ; F, every other register,
memory and the rest are unchanged. The second byte holds e - 2. (R314, R315, R316.) -/
def Obligations.RelativeJumps : Prop :=
  ∀ s : State,
  (∀ e, Runs (.jr e) [0x18#8, BitVec.ofInt 8 (e - 2)] s [] [] fun t => (t.pc.toNat : Int) = ((s.pc.toNat : Int) + e) % 65536) ∧
  (∀ cc e, Runs (.jrCc cc e) [0x20#8 + 8#8 * cc.code, BitVec.ofInt 8 (e - 2)] s [] [] fun t =>
    if s.meets (ccBit cc) then (t.pc.toNat : Int) = ((s.pc.toNat : Int) + e) % 65536 else t.pc = s.pc + 2) ∧
  (∀ e, Runs (.djnz e) [0x10#8, BitVec.ofInt 8 (e - 2)] s [.b] [] fun t => t.b = s.b - 1 ∧
    if t.b ≠ 0#8 then (t.pc.toNat : Int) = ((s.pc.toNat : Int) + e) % 65536 else t.pc = s.pc + 2)

/-- For every state, exec of callMn, callCcMn and rst gives a next state: the address of the next instruction is pushed
(high byte at SP-1, then low byte at SP-2, SP lower by 2) and PC is mn or the restart address; a conditional call
whose condition fails changes nothing but PC, which is past it. Every other byte of memory, every other register, F
and the rest are unchanged. That the address of the next instruction is pushed is the spec's decision D8 (log entry
25). The trace gains exactly the transactions of the rule, in its order, and a read uses up the queued input byte it
returns (log entries 3, 7 and 9). Memory keeps a byte written where RAM stands; what stands behind an address, and
the byte a read of one without storage gives, is the parameter MEM in the model's form (log entry 7). (R317, R318,
R323, R65, R100.) -/
def Obligations.CallsAndRestart : Prop :=
  ∀ s : State,
  (∀ mn, Runs (.callMn mn) [0xCD#8, loByte mn, hiByte mn] s [.sp, .trace] [s.sp - 1, s.sp - 2] fun t => PushedWord (s.pc + 3#16) [] s t ∧ t.pc = mn) ∧
  (∀ cc mn, if s.meets (condBit cc) then Runs (.callCcMn cc mn) [0xC4#8 + 8#8 * cc.code, loByte mn, hiByte mn] s [.sp, .trace] [s.sp - 1, s.sp - 2] fun t =>
      PushedWord (s.pc + 3#16) [] s t ∧ t.pc = mn
    else Completes (.callCcMn cc mn) [0xC4#8 + 8#8 * cc.code, loByte mn, hiByte mn] s [] [] fun _ => True) ∧
  (∀ v, Runs (.rst v) [0xC7#8 + v] s [.sp, .trace] [s.sp - 1, s.sp - 2] fun t => PushedWord (s.pc + 1#16) [] s t ∧ t.pc = v.setWidth 16)

/-- For every state, exec of ret and retCc gives a next state: PC is 256 times the byte at SP+1 plus the byte at SP and
SP is higher by 2 modulo 65536, for RET cc only when the bit of F the condition names has its value, else PC is past
the instruction and SP stays; F, every other register, memory and the rest are unchanged. The trace gains exactly
the transactions of the rule, in its order, and a read uses up the queued input byte it returns (log entries 3, 7
and 9). Memory keeps a byte written where RAM stands; what stands behind an address, and the byte a read of one
without storage gives, is the parameter MEM in the model's form (log entry 7). (R319, R320.) -/
def Obligations.ReturnsFromSubroutine : Prop :=
  ∀ s : State,
  (Runs .ret [0xC9#8] s [.sp, .memIn, .draws, .trace] [] fun t => t.pc.toNat = s.wordAt s.sp ∧ t.sp = s.sp + 2 ∧ Transacts (s.wordRead s.sp) s t) ∧
  (∀ cc, if s.meets (condBit cc) then Runs (.retCc cc) [0xC0#8 + 8#8 * cc.code] s [.sp, .memIn, .draws, .trace] [] fun t => t.pc.toNat = s.wordAt s.sp ∧ t.sp = s.sp + 2 ∧ Transacts (s.wordRead s.sp) s t
    else Completes (.retCc cc) [0xC0#8 + 8#8 * cc.code] s [] [] fun _ => True)

/-- For every state, exec of reti and retn gives a next state: PC is popped and SP is higher by 2; RETI emits one RETI
event after the second stack read and leaves IFF1 and IFF2; RETN gives IFF1 the value of IFF2 and emits nothing;
every other register, F, memory and the rest are unchanged. That RETI leaves the enables is the spec's D26 (log
entry 29), the direction of RETN's copy its C10 (log entry 22). The trace gains exactly the transactions of the
rule, in its order, and a read uses up the queued input byte it returns (log entries 3, 7 and 9). Memory keeps a
byte written where RAM stands; what stands behind an address, and the byte a read of one without storage gives, is
the parameter MEM in the model's form (log entry 7). (R321, R322, R415.) -/
def Obligations.ReturnsFromInterrupt : Prop :=
  ∀ s : State,
  (Runs .reti [0xED#8, 0x4D#8] s [.sp, .memIn, .draws, .trace] [] fun t => t.pc.toNat = s.wordAt s.sp ∧ t.sp = s.sp + 2 ∧
    Transacts (s.wordRead s.sp ++ [.reti]) s t) ∧
  (Runs .retn [0xED#8, 0x45#8] s [.sp, .iff1, .memIn, .draws, .trace] [] fun t => t.pc.toNat = s.wordAt s.sp ∧ t.sp = s.sp + 2 ∧ Transacts (s.wordRead s.sp) s t ∧ t.iff1 = s.iff2)

/-- For every state and address, exec of callMn and then of ret, and exec of rst and then of ret, give next states; in
the last every register, SP and F are as before, memory has changed at SP-1 and SP-2 only and, where RAM stands
behind SP-1 and SP-2, PC is the address after the call (PC + 3, PC + 1). It rests on the pushed address being the
next instruction's, the spec's decision D8 (log entry 25). Memory keeps a byte written where RAM stands; what stands
behind an address, and the byte a read of one without storage gives, is the parameter MEM in the model's form (log
entry 7). (R317, R319, R323, R65.) -/
def Obligations.CallThenReturnComesBack : Prop :=
  ∀ s : State,
  (∀ mn, ∃ t u, exec (.callMn mn) s = .next t ∧ exec .ret t = .next u ∧ Unchanged [.pc, .memIn, .draws, .trace] s u ∧
    MemUnchanged [s.sp - 1, s.sp - 2] s u ∧
    (s.keeps (s.sp - 1) = true → s.keeps (s.sp - 2) = true → u.pc = s.pc + 3#16)) ∧
  (∀ v, ∃ t u, exec (.rst v) s = .next t ∧ exec .ret t = .next u ∧ Unchanged [.pc, .memIn, .draws, .trace] s u ∧
    MemUnchanged [s.sp - 1, s.sp - 2] s u ∧
    (s.keeps (s.sp - 1) = true → s.keeps (s.sp - 2) = true → u.pc = s.pc + 1#16))

/-- For every state, exec of inAN and inRC gives a next state: one I/O read of port 256 A + n, or BC, is emitted and the
register holds its byte (the next queued input byte if there is one, else a free value: how inputs reach the model
is log entry 3); IN r,(C) writes S, Z, parity of it, H = N = 0, C unchanged; IN A,(n) leaves F; nothing else changes
but PC and, for IN r,(C), U5 and U3. The trace gains exactly the transactions of the rule, in its order, and a read
uses up the queued input byte it returns (log entries 3, 7 and 9). (R340, R341, R64.) -/
def Obligations.PortInput : Prop :=
  ∀ s : State,
  (∀ n, Completes (.inAN n) [0xDB#8, n] s [.a, .ioIn, .trace, .draws] [] fun t => PortGives s t.a ∧ Transacts [.ioRead (s.portAN n) t.a] s t ∧ (s.portAN n).toNat = bytesToNat s.a n) ∧
  (∀ r, Completes (.inRC r) [0xED#8, 0x40#8 + 8#8 * r.code] s [.ofReg8 r, .f, .ioIn, .trace, .draws] [] fun t => PortGives s (t.r8 r) ∧ Transacts [.ioRead s.bc (t.r8 r)] s t ∧
    t.flags = ⟨decide (128 ≤ (t.r8 r).toNat), decide ((t.r8 r).toNat = 0), false, evenOnes (t.r8 r), false, s.flags.c⟩)

/-- For every state, exec of outNA and outCR gives a next state: one I/O write is emitted, of A to port 256 A + n, or of
the register to port BC; every register, F, memory and the rest are unchanged, PC is past the instruction. The trace
gains exactly the transactions of the rule, in its order, and a read uses up the queued input byte it returns (log
entries 3, 7 and 9). (R342, R343, R64, R78.) -/
def Obligations.PortOutput : Prop :=
  ∀ s : State,
  (∀ n, Completes (.outNA n) [0xD3#8, n] s [.trace] [] fun t => Transacts [.ioWrite (s.portAN n) s.a] s t ∧ (s.portAN n).toNat = bytesToNat s.a n) ∧
  (∀ r, Completes (.outCR r) [0xED#8, 0x41#8 + 8#8 * r.code] s [.trace] [] fun t => Transacts [.ioWrite s.bc (s.r8 r)] s t)

/-- For every state, exec of ini and ind gives a next state: a byte is read from port BC, B not yet decremented, then
written at HL; B is one less, HL one more (INI) or less (IND), Z says whether B after is 0, N = 1, S, H, P/V and C
are unchanged; every other byte of memory, every other register and the rest are unchanged, PC is past the
instruction. The port before the decrement is the spec's D19 (log entry 20), the queued input log entry 3. The trace
gains exactly the transactions of the rule, in its order, and a read uses up the queued input byte it returns (log
entries 3, 7 and 9). Memory keeps a byte written where RAM stands; what stands behind an address, and the byte a
read of one without storage gives, is the parameter MEM in the model's form (log entry 7). (R344, R346, R64.) -/
def Obligations.BlockInputIteration : Prop :=
  ∀ s : State,
  InputsBlock .ini [0xED#8, 0xA2#8] s 1#16 ∧
  InputsBlock .ind [0xED#8, 0xAA#8] s (-1#16)

/-- For every state, exec of outi and outd gives a next state: the byte at HL is written to port BC, B not yet
decremented; B is one less, HL one more (OUTI) or less (OUTD), Z says whether B after is 0, N = 1, S, H, P/V and C
are unchanged; memory, every other register and the rest are unchanged, PC is past the instruction. The port before
the decrement is the spec's D19 (log entry 20), OUTI's flags its C11 (log entry 22). The trace gains exactly the
transactions of the rule, in its order, and a read uses up the queued input byte it returns (log entries 3, 7 and
9). Memory keeps a byte written where RAM stands; what stands behind an address, and the byte a read of one without
storage gives, is the parameter MEM in the model's form (log entry 7). (R348, R350, R64.) -/
def Obligations.BlockOutputIteration : Prop :=
  ∀ s : State,
  OutputsBlock .outi [0xED#8, 0xA3#8] s 1#16 ∧
  OutputsBlock .outd [0xED#8, 0xAB#8] s (-1#16)

/-- For every state, exec of nop, halt, di, ei, im0, im1 and im2 gives a next state: nothing changes; the Halt state is
entered, the byte after the opcode read and discarded (R68); IFF1 = IFF2 = 0; IFF1 = IFF2 = 1; or the interrupt mode
is 0, 1 or 2; PC is past the instruction, and every other part of the state, F and memory are unchanged. The trace
gains exactly the transactions of the rule, in its order, and a read uses up the queued input byte it returns (log
entries 3, 7 and 9). Memory keeps a byte written where RAM stands; what stands behind an address, and the byte a
read of one without storage gives, is the parameter MEM in the model's form (log entry 7). (R68, R370, R371, R372,
R373, R374, R375, R376.) -/
def Obligations.CpuControlInstructions : Prop :=
  ∀ s : State,
  (Completes .nop [0x00#8] s [] [] fun _ => True) ∧
  (Completes .halt [0x76#8] s [.halted, .memIn, .draws, .trace] [] fun t => t.halted = true ∧ Transacts (s.byteRead (s.pc + 1)) s t) ∧
  (Completes .di [0xF3#8] s [.iff1, .iff2] [] fun t => t.iff1 = false ∧ t.iff2 = false) ∧
  (Completes .ei [0xFB#8] s [.iff1, .iff2] [] fun t => t.iff1 = true ∧ t.iff2 = true) ∧
  (Completes .im0 [0xED#8, 0x46#8] s [.im] [] fun t => t.im = .im0) ∧
  (Completes .im1 [0xED#8, 0x56#8] s [.im] [] fun t => t.im = .im1) ∧
  (Completes .im2 [0xED#8, 0x5E#8] s [.im] [] fun t => t.im = .im2)

/-- For every instruction of Instr (all 199 constructors) and every state, exec answers a next state: the machine raises
no synchronous exception (R400), there are no modes and no privilege (R425), and no operand value stops an
instruction. (R400, R425.) -/
def Obligations.EveryInstructionCompletes : Prop :=
  ∀ (i : Instr) (s : State), ∃ t, exec i s = .next t

/-- For every state at whose boundary nothing is requested and which is not halted, and every instruction that the four
bytes at PC decode to: the instruction is well-formed and step is exec of it on the state whose only differences are
that the sample of this boundary is used up and its bytes, those of its encoding and no more, have been read, in
ascending order. That these are the bytes that stand at PC when the step begins, so that every earlier store is seen
by the next fetch and nothing is prefetched, is the spec's decision D11 (R74; log entry 27). The samples of the
request lines are the queue of log entry 4. What the CPU reads and discards or spends idle beside the transactions
the rules list, and whether a repeat that goes on reads its bytes again, the spec leaves open: free values in the
model's own events (log entries 8 and 17); that in such a repeat one event stands for the reads of all the bytes,
also where they were changed since and make an instruction of another length, is the model's choice (log entry 33).
Memory keeps a byte written where RAM stands; what stands behind an address, and the byte a read of one without
storage gives, is the parameter MEM in the model's form (log entry 7). (R402, R61, R68, R74, R78, R107, R290.) -/
def Obligations.StepRunsDecodedInstruction : Prop :=
  ∀ (s : State) (i : Instr), s.Executes i →
  i.wellFormed = true ∧ ∃ u, step s = exec i u ∧ s.FetchedAs (encode i) u

/-- LD B,C is 41; LD (IX+0x10),0x7F is DD 36 10 7F; CALL 0x4000 is CD 00 40; NEG is ED 44; SRA (IX+3) is DD CB 03 2E;
BIT 7,A is CB 7F; JR with the byte 0xFE has e = 0; RST 0x28 is EF; LDDR is ED B8; ADD IX,IX is DD 29; HALT is 76.
(R102, R103, R104, R105, R106.) -/
def Obligations.WordsDecodeAsTheTablesSay : Prop :=
  decode [0x41#8] = .ok (.ldRR .b .c, []) ∧
  decode [0xDD#8, 0x36#8, 0x10#8, 0x7F#8] = .ok (.ldIxIndN 0x10#8 0x7F#8, []) ∧
  decode [0xCD#8, 0x00#8, 0x40#8] = .ok (.callMn 0x4000#16, []) ∧
  decode [0xED#8, 0x44#8] = .ok (.neg, []) ∧
  decode [0xDD#8, 0xCB#8, 0x03#8, 0x2E#8] = .ok (.sraIxInd 0x03#8, []) ∧
  decode [0xCB#8, 0x7F#8] = .ok (.bitR 7 .a, []) ∧
  decode [0x18#8, 0xFE#8] = .ok (.jr 0, []) ∧
  decode [0xEF#8] = .ok (.rst 0x28#8, []) ∧
  decode [0xED#8, 0xB8#8] = .ok (.lddr, []) ∧
  decode [0xDD#8, 0x29#8] = .ok (.addIxXx .ix, []) ∧
  decode [0x76#8] = .ok (.halt, [])

/-- For every well-formed instruction i, with every operand value its encoding admits, and any bytes after it: the
decoder reads i from the encoding of i followed by those bytes, and leaves exactly those bytes. (R90, R91, R102,
R103, R104, R105, R106, R107.) -/
def Obligations.DecodeOfEncodeIsInstruction : Prop :=
  ∀ (i : Instr) (rest : List Byte), i.wellFormed = true → decode (encode i ++ rest) = .ok (i, rest)

/-- For all bytes from which the decoder reads an instruction: the instruction is well-formed, and the bytes are its
encoding followed by the bytes the decoder left. So every word has one reading and every instruction one encoding.
(R90, R91, R102, R103, R104, R105, R106, R107.) -/
def Obligations.EncodeOfDecodeIsBytes : Prop :=
  ∀ (bs : List Byte) (i : Instr) (rest : List Byte), decode bs = .ok (i, rest) →
  i.wellFormed = true ∧ bs = encode i ++ rest

/-- For all four bytes: a first byte other than CB, ED, DD, FD always decodes; CB xx decodes exactly when xx is not 30
to 37; ED xx exactly when xx is one of the 58 listed values; DD xx and FD xx (xx not CB) exactly when xx is one of
the 39 listed values; DD CB d xx and FD CB d xx exactly when bits 2..0 of xx are 110 and xx is not 36. That such
bytes are refused is the spec's decision D1 (log entry 16). (R102, R103, R104, R105, R106, R112.) -/
def Obligations.UndefinedEncodingsAreExact : Prop :=
  ∀ b0 b1 b2 b3 : Byte,
  (b0 ≠ 0xCB#8 → b0 ≠ 0xED#8 → b0 ≠ 0xDD#8 → b0 ≠ 0xFD#8 → Decodes [b0, b1, b2, b3]) ∧
  (Decodes [0xCB#8, b1, b2, b3] ↔ ¬ (0x30 ≤ b1.toNat ∧ b1.toNat ≤ 0x37)) ∧
  (Decodes [0xED#8, b1, b2, b3] ↔ b1 ∈ edDefined) ∧
  (∀ p, p = 0xDD#8 ∨ p = 0xFD#8 → b1 ≠ 0xCB#8 → (Decodes [p, b1, b2, b3] ↔ b1 ∈ xyDefined)) ∧
  (∀ p, p = 0xDD#8 ∨ p = 0xFD#8 → (Decodes [p, 0xCB#8, b2, b3] ↔ b3.toNat % 8 = 6 ∧ b3 ≠ 0x36#8))

/-- For every state, either step gives a next state; or nothing is requested, the machine is not halted, the bytes at PC
decode to nothing and step refuses by that reason; or a maskable request is accepted in mode 2 with an odd vector
byte and step refuses by that reason. It never faults. The two refusals are the spec's decisions D1 and D12 (log
entries 16 and 15). (R112, R400, R402, R413.) -/
def Obligations.StepStopsOnlyWhereSpecIsSilent : Prop :=
  ∀ s : State,
  (∃ t, step s = .next t) ∨
  (s.Undisturbed ∧ ∃ e, decode s.bytesAtPC = .error e ∧ step s = .refused (.undefinedEncoding e)) ∨
  (s.Free ∧ ¬ s.NmiDue ∧ s.IntDue ∧ s.im = .im2 ∧ s.sample.ivec.toNat % 2 = 1 ∧ step s = .refused (.oddVector s.sample.ivec))

/-- For every state whose memory lists strictly rising addresses inside the 64K space and no cell that reads as an
unlisted one does: if step gives a next state, its memory has that form too. The form is the model's own choice (log
entry 6). (R34, R62, R71.) -/
def Obligations.MemoryFormIsKept : Prop :=
  ∀ s t : State, s.mem.wf = true → step s = .next t → t.mem.wf = true

/-- For every state in which IFF1 = 1 implies IFF2 = 1: if step gives a next state, that holds in it. It rests on what
DI, EI, RETN, reset (D6, log entry 12) and the two acknowledges (the spec's D4, log entry 10) write. (R28, R410,
R411.) -/
def Obligations.EnableOrderIsKept : Prop :=
  ∀ s t : State, s.EnableOrder → step s = .next t → t.EnableOrder

/-- For every step without a reset that gives a next state: R is unchanged unless the step executes LD R,A, and is then
A; I unless LD I,A, and is then A; IM unless IM 0, 1 or 2; the alternate A and F unless EX AF,AF', the alternate B
to L unless EXX; IFF1 unless DI, EI, RETN or an accepted interrupt; IFF2 unless DI, EI or an accepted maskable
interrupt; the Halt state is entered by HALT only and left by an accepted interrupt only. In particular R never
counts fetches, which is the spec's decision D16 (log entry 25); what an accepted interrupt does to IFF1 and IFF2 is
its D4 (log entry 10), which of two requests is accepted its D5 (log entry 11). (R21, R23, R28, R29, R30, R31, R38,
R420.) -/
def Obligations.ControlStateWriters : Prop :=
  ∀ s t : State, s.sample.reset = .inactive → step s = .next t →
  (t.rReg = s.rReg ∨ (s.Executes .ldRRegA ∧ t.rReg = s.a)) ∧
  (t.iReg = s.iReg ∨ (s.Executes .ldIRegA ∧ t.iReg = s.a)) ∧
  (t.im = s.im ∨ (s.Executes .im0 ∧ t.im = .im0) ∨ (s.Executes .im1 ∧ t.im = .im1) ∨ (s.Executes .im2 ∧ t.im = .im2)) ∧
  ((t.aAlt = s.aAlt ∧ t.fAlt = s.fAlt) ∨ s.Executes .exAfAf) ∧
  ((t.bAlt = s.bAlt ∧ t.cAlt = s.cAlt ∧ t.dAlt = s.dAlt ∧ t.eAlt = s.eAlt ∧ t.hAlt = s.hAlt ∧ t.lAlt = s.lAlt) ∨
    s.Executes .exx) ∧
  (t.iff1 = s.iff1 ∨ s.Executes .di ∨ s.Executes .ei ∨ s.Executes .retn ∨ (s.Free ∧ (s.NmiDue ∨ s.IntDue))) ∧
  (t.iff2 = s.iff2 ∨ s.Executes .di ∨ s.Executes .ei ∨ (s.Free ∧ ¬ s.NmiDue ∧ s.IntDue)) ∧
  (s.halted = false → t.halted = true → s.Executes .halt) ∧
  (s.halted = true → t.halted = false → s.Free ∧ (s.NmiDue ∨ s.IntDue))

/-- State.reset has PC 0x0000, IFF1 = IFF2 = 0, mode 0, is not halted and has no latched request; its memory has the
canonical form and lists nothing; IFF1 is set only where IFF2 is. PC is the one value Y80DOC gives; the control
state is the spec's decision D6 (log entry 12), the empty memory the model's (log entry 6). (R41, R451.) -/
def Obligations.ResetStateMeetsInvariants : Prop :=
  State.reset.pc = 0x0000#16 ∧
  State.reset.iff1 = false ∧
  State.reset.iff2 = false ∧
  State.reset.im = .im0 ∧
  State.reset.halted = false ∧
  State.reset.nmiPending = false ∧
  State.reset.mem = [] ∧
  State.reset.mem.wf = true ∧
  State.reset.EnableOrder

/-- For every state whose boundary has resetb active, halted or not and whatever else is requested: step gives a state
with PC 0x0000, I, R and SP at the parameters RESET_I, RESET_R and RESET_SP, IFF1 = IFF2 = 0, mode 0, not halted, no
latched request. With resetb alone every other register, both banks, IX and IY are unchanged; with clearb as well,
as at power-on, each of these holds the value the model names for it. Every byte of memory, the memory map, the
queued input bytes, the trace and the counter are unchanged. The control values are the spec's decision D6 (log
entry 12), the parameters and the values after clearb log entry 5 (the spec gives none). That a reset keeps memory,
the map, the queued input bytes and the counter and records no event is the model's choice (log entry 32): R41
leaves memory to the platform. That a reset falls at a boundary only, as one event with or without clearb, is the
spec's D25 (log entry 18). The queue of samples is log entry 4. (R41, R450, R451, R452.) -/
def Obligations.UserResetEffect : Prop :=
  ∀ s : State,
  (s.sample.reset = .user → ∃ t, step s = .next t ∧ t.ControlReset ∧
    Unchanged [.pc, .iReg, .rReg, .sp, .iff1, .iff2, .im, .halted, .nmiPending, .repeating, .inputs] s t ∧ MemUnchanged [] s t) ∧
  (s.sample.reset = .powerOn → ∃ t, step s = .next t ∧ t.ControlReset ∧ t.RegistersCleared ∧
    Unchanged [.pc, .iReg, .rReg, .sp, .iff1, .iff2, .im, .halted, .nmiPending, .repeating, .inputs,
      .a, .f, .b, .c, .d, .e, .h, .l, .aAlt, .fAlt, .bAlt, .cAlt, .dAlt, .eAlt, .hAlt, .lAlt, .ix, .iy] s t ∧ MemUnchanged [] s t)

/-- For every state with no reset and no bus request whose latch is set or whose nmi_req is up, whatever IFF1, IM and
the Halt state are and whether or not int_req is up: step gives a state in which a discarded read at PC and then an
acknowledge transaction have occurred, PC has been pushed (high byte at SP-1, then low byte at SP-2), PC is 0x0066,
IFF1 = 0, the latch is clear and the Halt state has ended; IFF2, IM, every other register, F and every other byte of
memory are unchanged. IFF1 and IFF2 are the spec's D4 (log entry 10), the rank before int_req its D5 (log entry 11),
setting and clearing the latch D17 (log entry 19). The trace gains exactly the transactions of the rule, in its
order, and a read uses up the queued input byte it returns (log entries 3, 7 and 9). Memory keeps a byte written
where RAM stands; what stands behind an address, and the byte a read of one without storage gives, is the parameter
MEM in the model's form (log entry 7). (R404, R411, R412, R403.) -/
def Obligations.NonMaskableAcknowledge : Prop :=
  ∀ s : State, s.Free → s.NmiDue → ∃ t, step s = .next t ∧
  PushedWord s.pc (s.byteRead s.pc ++ [.iack s.sample.ivec]) s t ∧ t.pc = 0x0066#16 ∧ t.iff1 = false ∧ t.nmiPending = false ∧
  t.halted = false ∧ Unchanged [.pc, .sp, .iff1, .nmiPending, .halted, .repeating, .inputs, .memIn, .draws, .trace] s t ∧
  MemUnchanged [s.sp - 1, s.sp - 2] s t

/-- For every state with no reset, no bus request and no non-maskable request, with int_req up and IFF1 = 1: unless the
mode is 2 and the vector byte odd, step gives a state in which a discarded read at PC, an acknowledge transaction
and in mode 2 an idle cycle and the two table reads have occurred, in this order, then PC has been pushed; PC is
0x0038 in modes 0 and 1 and in mode 2 the word in memory (read before the pushes, low byte first) at the address
whose high byte is I and whose low byte is the vector; IFF1 = IFF2 = 0 and the Halt state has ended; every other
register, F, IM and every other byte of memory are unchanged. Clearing IFF1 and IFF2 is the spec's D4 (log entry
10). The trace gains exactly the transactions of the rule, in its order, and a read uses up the queued input byte it
returns (log entries 3, 7 and 9). Memory keeps a byte written where RAM stands; what stands behind an address, and
the byte a read of one without storage gives, is the parameter MEM in the model's form (log entry 7). (R405, R410,
R412, R413, R414.) -/
def Obligations.MaskableAcknowledge : Prop :=
  ∀ s : State, s.Free → ¬ s.NmiDue → s.IntDue → (s.im = .im2 → s.sample.ivec.toNat % 2 = 0) → ∃ t, step s = .next t ∧
  (let u := s.readDone s.pc
    let table := word16 s.iReg s.sample.ivec
    PushedWord s.pc (s.byteRead s.pc ++ [.iack s.sample.ivec] ++ if s.im = .im2 then .idle :: u.wordRead table else []) s t ∧
    t.pc.toNat = if s.im = .im2 then u.wordAt table else 0x0038) ∧
  t.iff1 = false ∧ t.iff2 = false ∧ t.halted = false ∧
  Unchanged [.pc, .sp, .iff1, .iff2, .halted, .repeating, .inputs, .memIn, .draws, .trace] s t ∧ MemUnchanged [s.sp - 1, s.sp - 2] s t

/-- For every halted state with no reset, no bus request, no non-maskable request and no enabled maskable request (with
IFF1 = 0 int_req does not matter): step gives the state that differs only by one halt cycle in the trace and the
used-up sample; it is still halted, and memory and every register are unchanged. (R402, R420.) -/
def Obligations.HaltStateIdles : Prop :=
  ∀ s : State, s.Free → ¬ s.NmiDue → ¬ s.IntDue → s.halted = true → ∃ t, step s = .next t ∧
  t.trace = .halt :: s.trace ∧ Unchanged [.trace, .inputs] s t ∧ MemUnchanged [] s t

/-- For every state with no reset and with the bus requested, whatever interrupts are requested: step gives a state in
which no register, flag or control bit has changed, the latch is set if it was or if nmi_req is up, and each byte of
memory is the last one the other master wrote there, or as before if it wrote none or no RAM stands there, whatever
else it reads or writes. The trace gains the grant and, in the Halt state, which goes on, a halt cycle. That nmi_req
sampled during a grant sets the latch is the inference from R404 that R421 marks as its own, the spec's D17 (log
entry 19). That DMA comes before interrupts while running is the spec's D5 (log entry 11), how the grant is modelled
log entry 24, the queue of samples log entry 4. Memory keeps a byte written where RAM stands; what stands behind an
address, and the byte a read of one without storage gives, is the parameter MEM in the model's form (log entry 7).
(R76, R404, R421, R403.) -/
def Obligations.BusGrantKeepsCpuState : Prop :=
  ∀ (s : State) (ws : List DmaAccess), s.sample.reset = .inactive → s.sample.dma = some ws → ∃ t, step s = .next t ∧
  t.nmiPending = (s.nmiPending || s.sample.nmiReq) ∧ Unchanged [.nmiPending, .inputs, .trace] s t ∧
  t.trace = (if s.halted then [.halt, .dmaGrant] else [.dmaGrant]) ++ s.trace ∧
  ∀ a, t.cell a = if s.keeps a then (lastDmaWrite a ws).getD (s.cell a) else s.cell a

/-- For every state and every vector byte: after the non-maskable acknowledge, exec of retn gives a next state in which
every register, SP, IFF2 and IM are what they were, PC too where RAM stands behind SP-1 and SP-2, and IFF1 is IFF2:
what it was if the two were equal, and, in a non-maskable routine that is itself interrupted so, IFF2 all the same.
Memory changes at SP-1 and SP-2 only, where the acknowledge wrote the two bytes of PC; besides, the Halt state, the
latch, the queue of input bytes, the counter and the trace change. It rests on the spec's D4 (log entry 10) and C10
(log entry 22). Memory keeps a byte written where RAM stands; what stands behind an address, and the byte a read of
one without storage gives, is the parameter MEM in the model's form (log entry 7). (R322, R411, R415, R416.) -/
def Obligations.ReturnFromNmiRestores : Prop :=
  ∀ (s : State) (v : Byte), ∃ t, exec .retn (ackNonMaskable v s) = .next t ∧
  Unchanged [.pc, .iff1, .halted, .nmiPending, .repeating, .memIn, .draws, .trace] s t ∧
  MemUnchanged [s.sp - 1, s.sp - 2] s t ∧ t.iff1 = s.iff2 ∧
  (s.keeps (s.sp - 1) = true → s.keeps (s.sp - 2) = true → t.pc = s.pc)
end

