-- ==== Sys2Proof/Laws/Decode.lean ====
section
/-! SUPPORT. Decoding: what the row tables select, and that the decoder reads well-formed instructions only. -/

namespace Sys2Proof

/-- The row selected is one of the page, the byte fits it, and its fields name operands. -/
theorem selectRow_mem {α : Type} {rows : List (OpRow α)} {op : Byte} {x : α} (h : selectRow rows op = some x) :
    ∃ r ∈ rows, op &&& r.mask = r.pat ∧ r.make op = some x := by
  induction rows with
  | nil => simp [selectRow] at h
  | cons r rest ih =>
    simp only [selectRow] at h
    split at h
    · rename_i hf
      cases hm : r.make op with
      | some y =>
        rw [hm] at h
        exact ⟨r, List.mem_cons_self, hf, hm.trans h⟩
      | none =>
        rw [hm] at h
        obtain ⟨r', hr, h'⟩ := ih h
        exact ⟨r', List.mem_cons_of_mem _ hr, h'⟩
    · obtain ⟨r', hr, h'⟩ := ih h
      exact ⟨r', List.mem_cons_of_mem _ hr, h'⟩

/-- `P` holds of every instruction that operand bytes can complete. -/
def Tail.All (P : Instr → Prop) : Tail → Prop
  | .none i => P i
  | .one k => ∀ n, P (k n)
  | .word k => ∀ w, P (k w)
  | .two k => ∀ d n, P (k d n)

theorem Tail.read_all {P : Instr → Prop} {t : Tail} {bs rest : List Byte} {i : Instr} (ht : t.All P)
    (h : t.read bs = .ok (i, rest)) : P i := by
  cases t <;> rcases bs with _ | ⟨x, _ | ⟨y, bs⟩⟩ <;> simp [Tail.read] at h <;> obtain ⟨rfl, -⟩ := h
  all_goals first | exact ht | exact ht _ | exact ht _ _

/-- What a page yields has a property that all its rows have. -/
theorem decodePage_all {P : Instr → Prop} {rows : List (OpRow Tail)} {err : Byte → DecodeError} {bs rest : List Byte}
    {i : Instr} (hrows : ∀ r ∈ rows, ∀ op t, r.make op = some t → t.All P) (h : decodePage rows err bs = .ok (i, rest)) :
    P i := by
  cases bs with
  | nil => simp [decodePage] at h
  | cons op bs =>
    simp only [decodePage] at h
    cases hs : selectRow rows op with
    | none => rw [hs] at h; cases h
    | some t =>
      rw [hs] at h
      obtain ⟨r, hr, -, hm⟩ := selectRow_mem hs
      exact Tail.read_all (hrows r hr op t hm) h

theorem decodeXYCB_all {P : Instr → Prop} {rows : List (OpRow (Byte → Instr))} {bs rest : List Byte} {i : Instr}
    (hrows : ∀ r ∈ rows, ∀ op k, r.make op = some k → ∀ d, P (k d)) (h : decodeXYCB rows bs = .ok (i, rest)) : P i := by
  rcases bs with _ | ⟨d, _ | ⟨op, bs⟩⟩
  · simp [decodeXYCB] at h
  · simp [decodeXYCB] at h
  · simp only [decodeXYCB] at h
    cases hs : selectRow rows op with
    | none => rw [hs] at h; cases h
    | some k =>
      rw [hs] at h
      obtain ⟨r, hr, -, hm⟩ := selectRow_mem hs
      cases h
      exact hrows r hr op k hm d

theorem decodeXY_all {P : Instr → Prop} {rows : List (OpRow Tail)} {cb : List (OpRow (Byte → Instr))} {bs rest : List Byte}
    {i : Instr} (hrows : ∀ r ∈ rows, ∀ op t, r.make op = some t → t.All P)
    (hcb : ∀ r ∈ cb, ∀ op k, r.make op = some k → ∀ d, P (k d)) (h : decodeXY rows cb bs = .ok (i, rest)) : P i := by
  cases bs with
  | nil => simp [decodeXY] at h
  | cons b bs =>
    simp only [decodeXY] at h
    split at h
    · exact decodeXYCB_all hcb h
    · exact decodePage_all hrows h

/-- The distance read from a byte can be encoded. -/
theorem distanceOk_distanceOfByte (b : Byte) : distanceOk (distanceOfByte b) = true := by
  have h1 := BitVec.le_toInt b
  have h2 := BitVec.toInt_lt (x := b)
  norm_num at h1 h2
  unfold distanceOk distanceOfByte
  rw [Bool.and_eq_true]
  exact ⟨decide_eq_true (by omega), decide_eq_true (by omega)⟩

/-- The bit number read from a byte can be encoded. -/
theorem bitNumberOk_field53 (op : Byte) : bitNumberOk (field53 op).toNat = true := by
  revert op
  decide +kernel

/-- The restart address read from a byte can be encoded. -/
theorem restartOk_mask (op : Byte) : restartOk (op &&& 0b00111000#8) = true := by
  revert op
  decide +kernel

/-- Distances read back what was encoded. -/
theorem distanceOfByte_byteOfDistance {e : Int} (h : distanceOk e = true) : distanceOfByte (byteOfDistance e) = e := by
  simp [distanceOk] at h
  simp only [distanceOfByte, byteOfDistance, BitVec.toInt_ofInt, Int.bmod]
  omega

theorem byteOfDistance_distanceOfByte (b : Byte) : byteOfDistance (distanceOfByte b) = b := by
  simp [byteOfDistance, distanceOfByte]

theorem mainRows_wellFormed : ∀ r ∈ mainRows, ∀ op t, r.make op = some t → t.All (fun i => i.wellFormed = true) := by
  simp only [mainRows, mainRowsExact1, mainRowsExact2, mainRowsFields, List.forall_mem_append, List.forall_mem_cons]
  simp [Tail.All, Instr.wellFormed, distanceOk_distanceOfByte, restartOk_mask, Option.bind_eq_some_iff]
  rintro op t x - y - rfl
  rfl

theorem cbRows_wellFormed : ∀ r ∈ cbRows, ∀ op t, r.make op = some t → t.All (fun i => i.wellFormed = true) := by
  simp only [cbRows, cbRowsExact, cbRowsFields, List.forall_mem_append, List.forall_mem_cons]
  simp [Tail.All, Instr.wellFormed, bitNumberOk_field53, Option.bind_eq_some_iff]

theorem edRows_wellFormed : ∀ r ∈ edRows, ∀ op t, r.make op = some t → t.All (fun i => i.wellFormed = true) := by
  simp only [edRows, edRowsExact, edRowsFields, List.forall_mem_append, List.forall_mem_cons]
  simp [Tail.All, Instr.wellFormed, Option.bind_eq_some_iff]

theorem ixRows_wellFormed : ∀ r ∈ ixRows, ∀ op t, r.make op = some t → t.All (fun i => i.wellFormed = true) := by
  simp only [ixRows, ixRowsExact, ixRowsFields, List.forall_mem_append, List.forall_mem_cons]
  simp [Tail.All, Instr.wellFormed, Option.bind_eq_some_iff]

theorem iyRows_wellFormed : ∀ r ∈ iyRows, ∀ op t, r.make op = some t → t.All (fun i => i.wellFormed = true) := by
  simp only [iyRows, iyRowsExact, iyRowsFields, List.forall_mem_append, List.forall_mem_cons]
  simp [Tail.All, Instr.wellFormed, Option.bind_eq_some_iff]

theorem ixCbRows_wellFormed : ∀ r ∈ ixCbRows, ∀ op k, r.make op = some k → ∀ d, (k d).wellFormed = true := by
  simp only [ixCbRows, ixCbRowsExact, ixCbRowsFields, List.forall_mem_append, List.forall_mem_cons]
  simp [Instr.wellFormed, bitNumberOk_field53]

theorem iyCbRows_wellFormed : ∀ r ∈ iyCbRows, ∀ op k, r.make op = some k → ∀ d, (k d).wellFormed = true := by
  simp only [iyCbRows, iyCbRowsExact, iyCbRowsFields, List.forall_mem_append, List.forall_mem_cons]
  simp [Instr.wellFormed, bitNumberOk_field53]

/-- Whatever bytes the decoder reads, the instruction is well-formed. -/
theorem decode_wellFormed {bs rest : List Byte} {i : Instr} (h : decode bs = .ok (i, rest)) : i.wellFormed = true := by
  cases bs with
  | nil => simp [decode] at h
  | cons b bs =>
    simp only [decode] at h
    split at h
    · exact decodePage_all (P := fun i => i.wellFormed = true) cbRows_wellFormed h
    · split at h
      · exact decodePage_all (P := fun i => i.wellFormed = true) edRows_wellFormed h
      · split at h
        · exact decodeXY_all (P := fun i => i.wellFormed = true) ixRows_wellFormed ixCbRows_wellFormed h
        · split at h
          · exact decodeXY_all (P := fun i => i.wellFormed = true) iyRows_wellFormed iyCbRows_wellFormed h
          · exact decodePage_all (P := fun i => i.wellFormed = true) mainRows_wellFormed h

end Sys2Proof
end

