-- ==== Sys2Proof/Laws/Flags.lean ====
section
/-! SUPPORT. Flags and arithmetic: what the packed flag byte holds, and each arithmetic primitive in exact arithmetic. -/

namespace Sys2Proof.Machine

/-- The flag byte holds the six flags it was packed from. -/
theorem unpackFlags_packFlags (s z u5 h u3 pv n c : Bool) :
    unpackFlags (packFlags s z u5 h u3 pv n c) = ⟨s, z, h, pv, n, c⟩ := by
  revert s z u5 h u3 pv n c
  decide

/-- What an instruction that writes flags leaves in the six flags, whatever U5 and U3 hold. -/
@[simp] theorem State.flags_writeFlags (s : State) (fl : Flags) : (s.writeFlags fl).flags = fl := by
  simp only [State.flags, State.writeFlags, unpackFlags_packFlags]

/-- The six flags depend on F alone. -/
theorem State.flags_of_f {s t : State} (h : t.f = s.f) : t.flags = s.flags := by
  simp only [State.flags, h]

theorem byte_msb (v : Byte) : v.msb = decide (128 ≤ v.toNat) := by
  rw [BitVec.msb_eq_decide]

theorem word_msb (v : Word) : v.msb = decide (32768 ≤ v.toNat) := by
  rw [BitVec.msb_eq_decide]

theorem byte_toInt (v : Byte) : v.toInt = if 128 ≤ v.toNat then (v.toNat : Int) - 256 else v.toNat := by
  have := v.isLt
  rw [BitVec.toInt_eq_toNat_cond]
  split <;> split <;> omega

theorem word_toInt (v : Word) : v.toInt = if 32768 ≤ v.toNat then (v.toNat : Int) - 65536 else v.toNat := by
  have := v.isLt
  rw [BitVec.toInt_eq_toNat_cond]
  split <;> split <;> omega

theorem byte_beq_zero (v : Byte) : (v == 0#8) = decide (v.toNat = 0) := by
  have : (v == 0#8) = decide (v = 0#8) := rfl
  rw [this, decide_eq_decide, ← BitVec.toNat_inj]
  rfl

theorem word_beq_zero (v : Word) : (v == 0#16) = decide (v.toNat = 0) := by
  have : (v == 0#16) = decide (v = 0#16) := rfl
  rw [this, decide_eq_decide, ← BitVec.toNat_inj]
  rfl

theorem bool_toNat_le (c : Bool) : c.toNat ≤ 1 := by cases c <;> decide

theorem add8_r (a b : Byte) (c : Bool) : (add8 a b c).r.toNat = (a.toNat + b.toNat + c.toNat) % 256 := by
  simp [add8]

/-- `add8` sets `v` exactly when the signed sum leaves -128..127. -/
theorem add8_v (a b : Byte) (c : Bool) : (add8 a b c).v =
    decide (a.toInt + b.toInt + c.toNat < -128 ∨ 127 < a.toInt + b.toInt + c.toNat) := by
  have ha := a.isLt
  have hb := b.isLt
  have hc := bool_toNat_le c
  have hr := add8_r a b c
  have hv : (add8 a b c).v = (a.msb == b.msb && (add8 a b c).r.msb != a.msb) := rfl
  rw [hv, byte_msb, byte_msb, byte_msb, byte_toInt, byte_toInt, Bool.eq_iff_iff]
  simp only [Bool.and_eq_true, beq_iff_eq, bne_iff_ne, ne_eq, decide_eq_decide, decide_eq_true_eq, hr]
  omega

theorem sub8_r (a b : Byte) (c : Bool) :
    ((sub8 a b c).r.toNat : Int) = ((a.toNat : Int) - b.toNat - c.toNat) % 256 := by
  have ha := a.isLt
  have hb := b.isLt
  have hc := bool_toNat_le c
  simp only [sub8, BitVec.toNat_sub, BitVec.toNat_ofNat]
  omega

/-- `sub8` sets `v` exactly when the signed difference leaves -128..127. -/
theorem sub8_v (a b : Byte) (c : Bool) : (sub8 a b c).v =
    decide (a.toInt - b.toInt - c.toNat < -128 ∨ 127 < a.toInt - b.toInt - c.toNat) := by
  have ha := a.isLt
  have hb := b.isLt
  have hc := bool_toNat_le c
  have hr := sub8_r a b c
  have hv : (sub8 a b c).v = (a.msb != b.msb && (sub8 a b c).r.msb != a.msb) := rfl
  rw [hv, byte_msb, byte_msb, byte_msb, byte_toInt, byte_toInt, Bool.eq_iff_iff]
  simp only [Bool.and_eq_true, bne_iff_ne, ne_eq, decide_eq_decide, decide_eq_true_eq]
  omega

theorem add16_r (a b : Word) (c : Bool) : (add16 a b c).r.toNat = (a.toNat + b.toNat + c.toNat) % 65536 := by
  simp [add16]

/-- `add16` sets `v` exactly when the signed sum leaves -32768..32767. -/
theorem add16_v (a b : Word) (c : Bool) : (add16 a b c).v =
    decide (a.toInt + b.toInt + c.toNat < -32768 ∨ 32767 < a.toInt + b.toInt + c.toNat) := by
  have ha := a.isLt
  have hb := b.isLt
  have hc := bool_toNat_le c
  have hr := add16_r a b c
  have hv : (add16 a b c).v = (a.msb == b.msb && (add16 a b c).r.msb != a.msb) := rfl
  rw [hv, word_msb, word_msb, word_msb, word_toInt, word_toInt, Bool.eq_iff_iff]
  simp only [Bool.and_eq_true, beq_iff_eq, bne_iff_ne, ne_eq, decide_eq_decide, decide_eq_true_eq, hr]
  omega

theorem sub16_r (a b : Word) (c : Bool) :
    ((sub16 a b c).r.toNat : Int) = ((a.toNat : Int) - b.toNat - c.toNat) % 65536 := by
  have ha := a.isLt
  have hb := b.isLt
  have hc := bool_toNat_le c
  simp only [sub16, BitVec.toNat_sub, BitVec.toNat_ofNat]
  omega

/-- `sub16` sets `v` exactly when the signed difference leaves -32768..32767. -/
theorem sub16_v (a b : Word) (c : Bool) : (sub16 a b c).v =
    decide (a.toInt - b.toInt - c.toNat < -32768 ∨ 32767 < a.toInt - b.toInt - c.toNat) := by
  have ha := a.isLt
  have hb := b.isLt
  have hc := bool_toNat_le c
  have hr := sub16_r a b c
  have hv : (sub16 a b c).v = (a.msb != b.msb && (sub16 a b c).r.msb != a.msb) := rfl
  rw [hv, word_msb, word_msb, word_msb, word_toInt, word_toInt, Bool.eq_iff_iff]
  simp only [Bool.and_eq_true, bne_iff_ne, ne_eq, decide_eq_decide, decide_eq_true_eq]
  omega

/-- `parity_even` says that the number of 1 bits is even. -/
theorem parityEven_iff (v : Byte) : parityEven v = decide ((List.range 8).countP (fun k => v.getLsbD k) % 2 = 0) := by
  revert v
  decide +kernel

end Sys2Proof.Machine
end

