-- ==== Sys2Proof/Laws/State.lean ====
section
/-! SUPPORT. One lemma per field per update of the state, so that no proof unfolds a record update. -/

namespace Sys2Proof.Machine

@[simp] theorem State.setA_a (s : State) (v : Byte) : (s.setA v).a = v := rfl
@[simp] theorem State.setA_f (s : State) (v : Byte) : (s.setA v).f = s.f := rfl
@[simp] theorem State.setA_b (s : State) (v : Byte) : (s.setA v).b = s.b := rfl
@[simp] theorem State.setA_c (s : State) (v : Byte) : (s.setA v).c = s.c := rfl
@[simp] theorem State.setA_d (s : State) (v : Byte) : (s.setA v).d = s.d := rfl
@[simp] theorem State.setA_e (s : State) (v : Byte) : (s.setA v).e = s.e := rfl
@[simp] theorem State.setA_h (s : State) (v : Byte) : (s.setA v).h = s.h := rfl
@[simp] theorem State.setA_l (s : State) (v : Byte) : (s.setA v).l = s.l := rfl
@[simp] theorem State.setA_aAlt (s : State) (v : Byte) : (s.setA v).aAlt = s.aAlt := rfl
@[simp] theorem State.setA_fAlt (s : State) (v : Byte) : (s.setA v).fAlt = s.fAlt := rfl
@[simp] theorem State.setA_bAlt (s : State) (v : Byte) : (s.setA v).bAlt = s.bAlt := rfl
@[simp] theorem State.setA_cAlt (s : State) (v : Byte) : (s.setA v).cAlt = s.cAlt := rfl
@[simp] theorem State.setA_dAlt (s : State) (v : Byte) : (s.setA v).dAlt = s.dAlt := rfl
@[simp] theorem State.setA_eAlt (s : State) (v : Byte) : (s.setA v).eAlt = s.eAlt := rfl
@[simp] theorem State.setA_hAlt (s : State) (v : Byte) : (s.setA v).hAlt = s.hAlt := rfl
@[simp] theorem State.setA_lAlt (s : State) (v : Byte) : (s.setA v).lAlt = s.lAlt := rfl
@[simp] theorem State.setA_ix (s : State) (v : Byte) : (s.setA v).ix = s.ix := rfl
@[simp] theorem State.setA_iy (s : State) (v : Byte) : (s.setA v).iy = s.iy := rfl
@[simp] theorem State.setA_sp (s : State) (v : Byte) : (s.setA v).sp = s.sp := rfl
@[simp] theorem State.setA_pc (s : State) (v : Byte) : (s.setA v).pc = s.pc := rfl
@[simp] theorem State.setA_iReg (s : State) (v : Byte) : (s.setA v).iReg = s.iReg := rfl
@[simp] theorem State.setA_rReg (s : State) (v : Byte) : (s.setA v).rReg = s.rReg := rfl
@[simp] theorem State.setA_iff1 (s : State) (v : Byte) : (s.setA v).iff1 = s.iff1 := rfl
@[simp] theorem State.setA_iff2 (s : State) (v : Byte) : (s.setA v).iff2 = s.iff2 := rfl
@[simp] theorem State.setA_im (s : State) (v : Byte) : (s.setA v).im = s.im := rfl
@[simp] theorem State.setA_halted (s : State) (v : Byte) : (s.setA v).halted = s.halted := rfl
@[simp] theorem State.setA_nmiPending (s : State) (v : Byte) : (s.setA v).nmiPending = s.nmiPending := rfl
@[simp] theorem State.setA_mem (s : State) (v : Byte) : (s.setA v).mem = s.mem := rfl
@[simp] theorem State.setA_memMap (s : State) (v : Byte) : (s.setA v).memMap = s.memMap := rfl
@[simp] theorem State.setA_inputs (s : State) (v : Byte) : (s.setA v).inputs = s.inputs := rfl
@[simp] theorem State.setA_ioIn (s : State) (v : Byte) : (s.setA v).ioIn = s.ioIn := rfl
@[simp] theorem State.setA_memIn (s : State) (v : Byte) : (s.setA v).memIn = s.memIn := rfl
@[simp] theorem State.setA_repeating (s : State) (v : Byte) : (s.setA v).repeating = s.repeating := rfl
@[simp] theorem State.setA_trace (s : State) (v : Byte) : (s.setA v).trace = s.trace := rfl
@[simp] theorem State.setA_draws (s : State) (v : Byte) : (s.setA v).draws = s.draws := rfl
@[simp] theorem State.setA_cell (s : State) (v : Byte) (x : Word) : (s.setA v).cell x = s.cell x := rfl
@[simp] theorem State.setA_holds (s : State) (v : Byte) (x : Word) : (s.setA v).holds x = s.holds x := rfl
@[simp] theorem State.setA_keeps (s : State) (v : Byte) (x : Word) : (s.setA v).keeps x = s.keeps x := rfl
@[simp] theorem State.setA_readByte (s : State) (v : Byte) (x : Word) : (s.setA v).readByte x = s.readByte x := rfl
@[simp] theorem State.setA_flags (s : State) (v : Byte) : (s.setA v).flags = s.flags := rfl
@[simp] theorem State.setA_bc (s : State) (v : Byte) : (s.setA v).bc = s.bc := rfl
@[simp] theorem State.setA_de (s : State) (v : Byte) : (s.setA v).de = s.de := rfl
@[simp] theorem State.setA_hl (s : State) (v : Byte) : (s.setA v).hl = s.hl := rfl

@[simp] theorem State.setF_a (s : State) (v : Byte) : (s.setF v).a = s.a := rfl
@[simp] theorem State.setF_f (s : State) (v : Byte) : (s.setF v).f = v := rfl
@[simp] theorem State.setF_b (s : State) (v : Byte) : (s.setF v).b = s.b := rfl
@[simp] theorem State.setF_c (s : State) (v : Byte) : (s.setF v).c = s.c := rfl
@[simp] theorem State.setF_d (s : State) (v : Byte) : (s.setF v).d = s.d := rfl
@[simp] theorem State.setF_e (s : State) (v : Byte) : (s.setF v).e = s.e := rfl
@[simp] theorem State.setF_h (s : State) (v : Byte) : (s.setF v).h = s.h := rfl
@[simp] theorem State.setF_l (s : State) (v : Byte) : (s.setF v).l = s.l := rfl
@[simp] theorem State.setF_aAlt (s : State) (v : Byte) : (s.setF v).aAlt = s.aAlt := rfl
@[simp] theorem State.setF_fAlt (s : State) (v : Byte) : (s.setF v).fAlt = s.fAlt := rfl
@[simp] theorem State.setF_bAlt (s : State) (v : Byte) : (s.setF v).bAlt = s.bAlt := rfl
@[simp] theorem State.setF_cAlt (s : State) (v : Byte) : (s.setF v).cAlt = s.cAlt := rfl
@[simp] theorem State.setF_dAlt (s : State) (v : Byte) : (s.setF v).dAlt = s.dAlt := rfl
@[simp] theorem State.setF_eAlt (s : State) (v : Byte) : (s.setF v).eAlt = s.eAlt := rfl
@[simp] theorem State.setF_hAlt (s : State) (v : Byte) : (s.setF v).hAlt = s.hAlt := rfl
@[simp] theorem State.setF_lAlt (s : State) (v : Byte) : (s.setF v).lAlt = s.lAlt := rfl
@[simp] theorem State.setF_ix (s : State) (v : Byte) : (s.setF v).ix = s.ix := rfl
@[simp] theorem State.setF_iy (s : State) (v : Byte) : (s.setF v).iy = s.iy := rfl
@[simp] theorem State.setF_sp (s : State) (v : Byte) : (s.setF v).sp = s.sp := rfl
@[simp] theorem State.setF_pc (s : State) (v : Byte) : (s.setF v).pc = s.pc := rfl
@[simp] theorem State.setF_iReg (s : State) (v : Byte) : (s.setF v).iReg = s.iReg := rfl
@[simp] theorem State.setF_rReg (s : State) (v : Byte) : (s.setF v).rReg = s.rReg := rfl
@[simp] theorem State.setF_iff1 (s : State) (v : Byte) : (s.setF v).iff1 = s.iff1 := rfl
@[simp] theorem State.setF_iff2 (s : State) (v : Byte) : (s.setF v).iff2 = s.iff2 := rfl
@[simp] theorem State.setF_im (s : State) (v : Byte) : (s.setF v).im = s.im := rfl
@[simp] theorem State.setF_halted (s : State) (v : Byte) : (s.setF v).halted = s.halted := rfl
@[simp] theorem State.setF_nmiPending (s : State) (v : Byte) : (s.setF v).nmiPending = s.nmiPending := rfl
@[simp] theorem State.setF_mem (s : State) (v : Byte) : (s.setF v).mem = s.mem := rfl
@[simp] theorem State.setF_memMap (s : State) (v : Byte) : (s.setF v).memMap = s.memMap := rfl
@[simp] theorem State.setF_inputs (s : State) (v : Byte) : (s.setF v).inputs = s.inputs := rfl
@[simp] theorem State.setF_ioIn (s : State) (v : Byte) : (s.setF v).ioIn = s.ioIn := rfl
@[simp] theorem State.setF_memIn (s : State) (v : Byte) : (s.setF v).memIn = s.memIn := rfl
@[simp] theorem State.setF_repeating (s : State) (v : Byte) : (s.setF v).repeating = s.repeating := rfl
@[simp] theorem State.setF_trace (s : State) (v : Byte) : (s.setF v).trace = s.trace := rfl
@[simp] theorem State.setF_draws (s : State) (v : Byte) : (s.setF v).draws = s.draws := rfl
@[simp] theorem State.setF_cell (s : State) (v : Byte) (x : Word) : (s.setF v).cell x = s.cell x := rfl
@[simp] theorem State.setF_holds (s : State) (v : Byte) (x : Word) : (s.setF v).holds x = s.holds x := rfl
@[simp] theorem State.setF_keeps (s : State) (v : Byte) (x : Word) : (s.setF v).keeps x = s.keeps x := rfl
@[simp] theorem State.setF_readByte (s : State) (v : Byte) (x : Word) : (s.setF v).readByte x = s.readByte x := rfl
@[simp] theorem State.setF_bc (s : State) (v : Byte) : (s.setF v).bc = s.bc := rfl
@[simp] theorem State.setF_de (s : State) (v : Byte) : (s.setF v).de = s.de := rfl
@[simp] theorem State.setF_hl (s : State) (v : Byte) : (s.setF v).hl = s.hl := rfl

@[simp] theorem State.setB_a (s : State) (v : Byte) : (s.setB v).a = s.a := rfl
@[simp] theorem State.setB_f (s : State) (v : Byte) : (s.setB v).f = s.f := rfl
@[simp] theorem State.setB_b (s : State) (v : Byte) : (s.setB v).b = v := rfl
@[simp] theorem State.setB_c (s : State) (v : Byte) : (s.setB v).c = s.c := rfl
@[simp] theorem State.setB_d (s : State) (v : Byte) : (s.setB v).d = s.d := rfl
@[simp] theorem State.setB_e (s : State) (v : Byte) : (s.setB v).e = s.e := rfl
@[simp] theorem State.setB_h (s : State) (v : Byte) : (s.setB v).h = s.h := rfl
@[simp] theorem State.setB_l (s : State) (v : Byte) : (s.setB v).l = s.l := rfl
@[simp] theorem State.setB_aAlt (s : State) (v : Byte) : (s.setB v).aAlt = s.aAlt := rfl
@[simp] theorem State.setB_fAlt (s : State) (v : Byte) : (s.setB v).fAlt = s.fAlt := rfl
@[simp] theorem State.setB_bAlt (s : State) (v : Byte) : (s.setB v).bAlt = s.bAlt := rfl
@[simp] theorem State.setB_cAlt (s : State) (v : Byte) : (s.setB v).cAlt = s.cAlt := rfl
@[simp] theorem State.setB_dAlt (s : State) (v : Byte) : (s.setB v).dAlt = s.dAlt := rfl
@[simp] theorem State.setB_eAlt (s : State) (v : Byte) : (s.setB v).eAlt = s.eAlt := rfl
@[simp] theorem State.setB_hAlt (s : State) (v : Byte) : (s.setB v).hAlt = s.hAlt := rfl
@[simp] theorem State.setB_lAlt (s : State) (v : Byte) : (s.setB v).lAlt = s.lAlt := rfl
@[simp] theorem State.setB_ix (s : State) (v : Byte) : (s.setB v).ix = s.ix := rfl
@[simp] theorem State.setB_iy (s : State) (v : Byte) : (s.setB v).iy = s.iy := rfl
@[simp] theorem State.setB_sp (s : State) (v : Byte) : (s.setB v).sp = s.sp := rfl
@[simp] theorem State.setB_pc (s : State) (v : Byte) : (s.setB v).pc = s.pc := rfl
@[simp] theorem State.setB_iReg (s : State) (v : Byte) : (s.setB v).iReg = s.iReg := rfl
@[simp] theorem State.setB_rReg (s : State) (v : Byte) : (s.setB v).rReg = s.rReg := rfl
@[simp] theorem State.setB_iff1 (s : State) (v : Byte) : (s.setB v).iff1 = s.iff1 := rfl
@[simp] theorem State.setB_iff2 (s : State) (v : Byte) : (s.setB v).iff2 = s.iff2 := rfl
@[simp] theorem State.setB_im (s : State) (v : Byte) : (s.setB v).im = s.im := rfl
@[simp] theorem State.setB_halted (s : State) (v : Byte) : (s.setB v).halted = s.halted := rfl
@[simp] theorem State.setB_nmiPending (s : State) (v : Byte) : (s.setB v).nmiPending = s.nmiPending := rfl
@[simp] theorem State.setB_mem (s : State) (v : Byte) : (s.setB v).mem = s.mem := rfl
@[simp] theorem State.setB_memMap (s : State) (v : Byte) : (s.setB v).memMap = s.memMap := rfl
@[simp] theorem State.setB_inputs (s : State) (v : Byte) : (s.setB v).inputs = s.inputs := rfl
@[simp] theorem State.setB_ioIn (s : State) (v : Byte) : (s.setB v).ioIn = s.ioIn := rfl
@[simp] theorem State.setB_memIn (s : State) (v : Byte) : (s.setB v).memIn = s.memIn := rfl
@[simp] theorem State.setB_repeating (s : State) (v : Byte) : (s.setB v).repeating = s.repeating := rfl
@[simp] theorem State.setB_trace (s : State) (v : Byte) : (s.setB v).trace = s.trace := rfl
@[simp] theorem State.setB_draws (s : State) (v : Byte) : (s.setB v).draws = s.draws := rfl
@[simp] theorem State.setB_cell (s : State) (v : Byte) (x : Word) : (s.setB v).cell x = s.cell x := rfl
@[simp] theorem State.setB_holds (s : State) (v : Byte) (x : Word) : (s.setB v).holds x = s.holds x := rfl
@[simp] theorem State.setB_keeps (s : State) (v : Byte) (x : Word) : (s.setB v).keeps x = s.keeps x := rfl
@[simp] theorem State.setB_readByte (s : State) (v : Byte) (x : Word) : (s.setB v).readByte x = s.readByte x := rfl
@[simp] theorem State.setB_flags (s : State) (v : Byte) : (s.setB v).flags = s.flags := rfl
@[simp] theorem State.setB_de (s : State) (v : Byte) : (s.setB v).de = s.de := rfl
@[simp] theorem State.setB_hl (s : State) (v : Byte) : (s.setB v).hl = s.hl := rfl

@[simp] theorem State.setBC_a (s : State) (v : Word) : (s.setBC v).a = s.a := rfl
@[simp] theorem State.setBC_f (s : State) (v : Word) : (s.setBC v).f = s.f := rfl
@[simp] theorem State.setBC_b (s : State) (v : Word) : (s.setBC v).b = hiByte v := rfl
@[simp] theorem State.setBC_c (s : State) (v : Word) : (s.setBC v).c = loByte v := rfl
@[simp] theorem State.setBC_d (s : State) (v : Word) : (s.setBC v).d = s.d := rfl
@[simp] theorem State.setBC_e (s : State) (v : Word) : (s.setBC v).e = s.e := rfl
@[simp] theorem State.setBC_h (s : State) (v : Word) : (s.setBC v).h = s.h := rfl
@[simp] theorem State.setBC_l (s : State) (v : Word) : (s.setBC v).l = s.l := rfl
@[simp] theorem State.setBC_aAlt (s : State) (v : Word) : (s.setBC v).aAlt = s.aAlt := rfl
@[simp] theorem State.setBC_fAlt (s : State) (v : Word) : (s.setBC v).fAlt = s.fAlt := rfl
@[simp] theorem State.setBC_bAlt (s : State) (v : Word) : (s.setBC v).bAlt = s.bAlt := rfl
@[simp] theorem State.setBC_cAlt (s : State) (v : Word) : (s.setBC v).cAlt = s.cAlt := rfl
@[simp] theorem State.setBC_dAlt (s : State) (v : Word) : (s.setBC v).dAlt = s.dAlt := rfl
@[simp] theorem State.setBC_eAlt (s : State) (v : Word) : (s.setBC v).eAlt = s.eAlt := rfl
@[simp] theorem State.setBC_hAlt (s : State) (v : Word) : (s.setBC v).hAlt = s.hAlt := rfl
@[simp] theorem State.setBC_lAlt (s : State) (v : Word) : (s.setBC v).lAlt = s.lAlt := rfl
@[simp] theorem State.setBC_ix (s : State) (v : Word) : (s.setBC v).ix = s.ix := rfl
@[simp] theorem State.setBC_iy (s : State) (v : Word) : (s.setBC v).iy = s.iy := rfl
@[simp] theorem State.setBC_sp (s : State) (v : Word) : (s.setBC v).sp = s.sp := rfl
@[simp] theorem State.setBC_pc (s : State) (v : Word) : (s.setBC v).pc = s.pc := rfl
@[simp] theorem State.setBC_iReg (s : State) (v : Word) : (s.setBC v).iReg = s.iReg := rfl
@[simp] theorem State.setBC_rReg (s : State) (v : Word) : (s.setBC v).rReg = s.rReg := rfl
@[simp] theorem State.setBC_iff1 (s : State) (v : Word) : (s.setBC v).iff1 = s.iff1 := rfl
@[simp] theorem State.setBC_iff2 (s : State) (v : Word) : (s.setBC v).iff2 = s.iff2 := rfl
@[simp] theorem State.setBC_im (s : State) (v : Word) : (s.setBC v).im = s.im := rfl
@[simp] theorem State.setBC_halted (s : State) (v : Word) : (s.setBC v).halted = s.halted := rfl
@[simp] theorem State.setBC_nmiPending (s : State) (v : Word) : (s.setBC v).nmiPending = s.nmiPending := rfl
@[simp] theorem State.setBC_mem (s : State) (v : Word) : (s.setBC v).mem = s.mem := rfl
@[simp] theorem State.setBC_memMap (s : State) (v : Word) : (s.setBC v).memMap = s.memMap := rfl
@[simp] theorem State.setBC_inputs (s : State) (v : Word) : (s.setBC v).inputs = s.inputs := rfl
@[simp] theorem State.setBC_ioIn (s : State) (v : Word) : (s.setBC v).ioIn = s.ioIn := rfl
@[simp] theorem State.setBC_memIn (s : State) (v : Word) : (s.setBC v).memIn = s.memIn := rfl
@[simp] theorem State.setBC_repeating (s : State) (v : Word) : (s.setBC v).repeating = s.repeating := rfl
@[simp] theorem State.setBC_trace (s : State) (v : Word) : (s.setBC v).trace = s.trace := rfl
@[simp] theorem State.setBC_draws (s : State) (v : Word) : (s.setBC v).draws = s.draws := rfl
@[simp] theorem State.setBC_cell (s : State) (v : Word) (x : Word) : (s.setBC v).cell x = s.cell x := rfl
@[simp] theorem State.setBC_holds (s : State) (v : Word) (x : Word) : (s.setBC v).holds x = s.holds x := rfl
@[simp] theorem State.setBC_keeps (s : State) (v : Word) (x : Word) : (s.setBC v).keeps x = s.keeps x := rfl
@[simp] theorem State.setBC_readByte (s : State) (v : Word) (x : Word) : (s.setBC v).readByte x = s.readByte x := rfl
@[simp] theorem State.setBC_flags (s : State) (v : Word) : (s.setBC v).flags = s.flags := rfl
@[simp] theorem State.setBC_bc (s : State) (v : Word) : (s.setBC v).bc = v := by simp [State.bc]
@[simp] theorem State.setBC_de (s : State) (v : Word) : (s.setBC v).de = s.de := rfl
@[simp] theorem State.setBC_hl (s : State) (v : Word) : (s.setBC v).hl = s.hl := rfl

@[simp] theorem State.setDE_a (s : State) (v : Word) : (s.setDE v).a = s.a := rfl
@[simp] theorem State.setDE_f (s : State) (v : Word) : (s.setDE v).f = s.f := rfl
@[simp] theorem State.setDE_b (s : State) (v : Word) : (s.setDE v).b = s.b := rfl
@[simp] theorem State.setDE_c (s : State) (v : Word) : (s.setDE v).c = s.c := rfl
@[simp] theorem State.setDE_d (s : State) (v : Word) : (s.setDE v).d = hiByte v := rfl
@[simp] theorem State.setDE_e (s : State) (v : Word) : (s.setDE v).e = loByte v := rfl
@[simp] theorem State.setDE_h (s : State) (v : Word) : (s.setDE v).h = s.h := rfl
@[simp] theorem State.setDE_l (s : State) (v : Word) : (s.setDE v).l = s.l := rfl
@[simp] theorem State.setDE_aAlt (s : State) (v : Word) : (s.setDE v).aAlt = s.aAlt := rfl
@[simp] theorem State.setDE_fAlt (s : State) (v : Word) : (s.setDE v).fAlt = s.fAlt := rfl
@[simp] theorem State.setDE_bAlt (s : State) (v : Word) : (s.setDE v).bAlt = s.bAlt := rfl
@[simp] theorem State.setDE_cAlt (s : State) (v : Word) : (s.setDE v).cAlt = s.cAlt := rfl
@[simp] theorem State.setDE_dAlt (s : State) (v : Word) : (s.setDE v).dAlt = s.dAlt := rfl
@[simp] theorem State.setDE_eAlt (s : State) (v : Word) : (s.setDE v).eAlt = s.eAlt := rfl
@[simp] theorem State.setDE_hAlt (s : State) (v : Word) : (s.setDE v).hAlt = s.hAlt := rfl
@[simp] theorem State.setDE_lAlt (s : State) (v : Word) : (s.setDE v).lAlt = s.lAlt := rfl
@[simp] theorem State.setDE_ix (s : State) (v : Word) : (s.setDE v).ix = s.ix := rfl
@[simp] theorem State.setDE_iy (s : State) (v : Word) : (s.setDE v).iy = s.iy := rfl
@[simp] theorem State.setDE_sp (s : State) (v : Word) : (s.setDE v).sp = s.sp := rfl
@[simp] theorem State.setDE_pc (s : State) (v : Word) : (s.setDE v).pc = s.pc := rfl
@[simp] theorem State.setDE_iReg (s : State) (v : Word) : (s.setDE v).iReg = s.iReg := rfl
@[simp] theorem State.setDE_rReg (s : State) (v : Word) : (s.setDE v).rReg = s.rReg := rfl
@[simp] theorem State.setDE_iff1 (s : State) (v : Word) : (s.setDE v).iff1 = s.iff1 := rfl
@[simp] theorem State.setDE_iff2 (s : State) (v : Word) : (s.setDE v).iff2 = s.iff2 := rfl
@[simp] theorem State.setDE_im (s : State) (v : Word) : (s.setDE v).im = s.im := rfl
@[simp] theorem State.setDE_halted (s : State) (v : Word) : (s.setDE v).halted = s.halted := rfl
@[simp] theorem State.setDE_nmiPending (s : State) (v : Word) : (s.setDE v).nmiPending = s.nmiPending := rfl
@[simp] theorem State.setDE_mem (s : State) (v : Word) : (s.setDE v).mem = s.mem := rfl
@[simp] theorem State.setDE_memMap (s : State) (v : Word) : (s.setDE v).memMap = s.memMap := rfl
@[simp] theorem State.setDE_inputs (s : State) (v : Word) : (s.setDE v).inputs = s.inputs := rfl
@[simp] theorem State.setDE_ioIn (s : State) (v : Word) : (s.setDE v).ioIn = s.ioIn := rfl
@[simp] theorem State.setDE_memIn (s : State) (v : Word) : (s.setDE v).memIn = s.memIn := rfl
@[simp] theorem State.setDE_repeating (s : State) (v : Word) : (s.setDE v).repeating = s.repeating := rfl
@[simp] theorem State.setDE_trace (s : State) (v : Word) : (s.setDE v).trace = s.trace := rfl
@[simp] theorem State.setDE_draws (s : State) (v : Word) : (s.setDE v).draws = s.draws := rfl
@[simp] theorem State.setDE_cell (s : State) (v : Word) (x : Word) : (s.setDE v).cell x = s.cell x := rfl
@[simp] theorem State.setDE_holds (s : State) (v : Word) (x : Word) : (s.setDE v).holds x = s.holds x := rfl
@[simp] theorem State.setDE_keeps (s : State) (v : Word) (x : Word) : (s.setDE v).keeps x = s.keeps x := rfl
@[simp] theorem State.setDE_readByte (s : State) (v : Word) (x : Word) : (s.setDE v).readByte x = s.readByte x := rfl
@[simp] theorem State.setDE_flags (s : State) (v : Word) : (s.setDE v).flags = s.flags := rfl
@[simp] theorem State.setDE_bc (s : State) (v : Word) : (s.setDE v).bc = s.bc := rfl
@[simp] theorem State.setDE_de (s : State) (v : Word) : (s.setDE v).de = v := by simp [State.de]
@[simp] theorem State.setDE_hl (s : State) (v : Word) : (s.setDE v).hl = s.hl := rfl

@[simp] theorem State.setHL_a (s : State) (v : Word) : (s.setHL v).a = s.a := rfl
@[simp] theorem State.setHL_f (s : State) (v : Word) : (s.setHL v).f = s.f := rfl
@[simp] theorem State.setHL_b (s : State) (v : Word) : (s.setHL v).b = s.b := rfl
@[simp] theorem State.setHL_c (s : State) (v : Word) : (s.setHL v).c = s.c := rfl
@[simp] theorem State.setHL_d (s : State) (v : Word) : (s.setHL v).d = s.d := rfl
@[simp] theorem State.setHL_e (s : State) (v : Word) : (s.setHL v).e = s.e := rfl
@[simp] theorem State.setHL_h (s : State) (v : Word) : (s.setHL v).h = hiByte v := rfl
@[simp] theorem State.setHL_l (s : State) (v : Word) : (s.setHL v).l = loByte v := rfl
@[simp] theorem State.setHL_aAlt (s : State) (v : Word) : (s.setHL v).aAlt = s.aAlt := rfl
@[simp] theorem State.setHL_fAlt (s : State) (v : Word) : (s.setHL v).fAlt = s.fAlt := rfl
@[simp] theorem State.setHL_bAlt (s : State) (v : Word) : (s.setHL v).bAlt = s.bAlt := rfl
@[simp] theorem State.setHL_cAlt (s : State) (v : Word) : (s.setHL v).cAlt = s.cAlt := rfl
@[simp] theorem State.setHL_dAlt (s : State) (v : Word) : (s.setHL v).dAlt = s.dAlt := rfl
@[simp] theorem State.setHL_eAlt (s : State) (v : Word) : (s.setHL v).eAlt = s.eAlt := rfl
@[simp] theorem State.setHL_hAlt (s : State) (v : Word) : (s.setHL v).hAlt = s.hAlt := rfl
@[simp] theorem State.setHL_lAlt (s : State) (v : Word) : (s.setHL v).lAlt = s.lAlt := rfl
@[simp] theorem State.setHL_ix (s : State) (v : Word) : (s.setHL v).ix = s.ix := rfl
@[simp] theorem State.setHL_iy (s : State) (v : Word) : (s.setHL v).iy = s.iy := rfl
@[simp] theorem State.setHL_sp (s : State) (v : Word) : (s.setHL v).sp = s.sp := rfl
@[simp] theorem State.setHL_pc (s : State) (v : Word) : (s.setHL v).pc = s.pc := rfl
@[simp] theorem State.setHL_iReg (s : State) (v : Word) : (s.setHL v).iReg = s.iReg := rfl
@[simp] theorem State.setHL_rReg (s : State) (v : Word) : (s.setHL v).rReg = s.rReg := rfl
@[simp] theorem State.setHL_iff1 (s : State) (v : Word) : (s.setHL v).iff1 = s.iff1 := rfl
@[simp] theorem State.setHL_iff2 (s : State) (v : Word) : (s.setHL v).iff2 = s.iff2 := rfl
@[simp] theorem State.setHL_im (s : State) (v : Word) : (s.setHL v).im = s.im := rfl
@[simp] theorem State.setHL_halted (s : State) (v : Word) : (s.setHL v).halted = s.halted := rfl
@[simp] theorem State.setHL_nmiPending (s : State) (v : Word) : (s.setHL v).nmiPending = s.nmiPending := rfl
@[simp] theorem State.setHL_mem (s : State) (v : Word) : (s.setHL v).mem = s.mem := rfl
@[simp] theorem State.setHL_memMap (s : State) (v : Word) : (s.setHL v).memMap = s.memMap := rfl
@[simp] theorem State.setHL_inputs (s : State) (v : Word) : (s.setHL v).inputs = s.inputs := rfl
@[simp] theorem State.setHL_ioIn (s : State) (v : Word) : (s.setHL v).ioIn = s.ioIn := rfl
@[simp] theorem State.setHL_memIn (s : State) (v : Word) : (s.setHL v).memIn = s.memIn := rfl
@[simp] theorem State.setHL_repeating (s : State) (v : Word) : (s.setHL v).repeating = s.repeating := rfl
@[simp] theorem State.setHL_trace (s : State) (v : Word) : (s.setHL v).trace = s.trace := rfl
@[simp] theorem State.setHL_draws (s : State) (v : Word) : (s.setHL v).draws = s.draws := rfl
@[simp] theorem State.setHL_cell (s : State) (v : Word) (x : Word) : (s.setHL v).cell x = s.cell x := rfl
@[simp] theorem State.setHL_holds (s : State) (v : Word) (x : Word) : (s.setHL v).holds x = s.holds x := rfl
@[simp] theorem State.setHL_keeps (s : State) (v : Word) (x : Word) : (s.setHL v).keeps x = s.keeps x := rfl
@[simp] theorem State.setHL_readByte (s : State) (v : Word) (x : Word) : (s.setHL v).readByte x = s.readByte x := rfl
@[simp] theorem State.setHL_flags (s : State) (v : Word) : (s.setHL v).flags = s.flags := rfl
@[simp] theorem State.setHL_bc (s : State) (v : Word) : (s.setHL v).bc = s.bc := rfl
@[simp] theorem State.setHL_de (s : State) (v : Word) : (s.setHL v).de = s.de := rfl
@[simp] theorem State.setHL_hl (s : State) (v : Word) : (s.setHL v).hl = v := by simp [State.hl]

@[simp] theorem State.setAF_a (s : State) (v : Word) : (s.setAF v).a = hiByte v := rfl
@[simp] theorem State.setAF_f (s : State) (v : Word) : (s.setAF v).f = loByte v := rfl
@[simp] theorem State.setAF_b (s : State) (v : Word) : (s.setAF v).b = s.b := rfl
@[simp] theorem State.setAF_c (s : State) (v : Word) : (s.setAF v).c = s.c := rfl
@[simp] theorem State.setAF_d (s : State) (v : Word) : (s.setAF v).d = s.d := rfl
@[simp] theorem State.setAF_e (s : State) (v : Word) : (s.setAF v).e = s.e := rfl
@[simp] theorem State.setAF_h (s : State) (v : Word) : (s.setAF v).h = s.h := rfl
@[simp] theorem State.setAF_l (s : State) (v : Word) : (s.setAF v).l = s.l := rfl
@[simp] theorem State.setAF_aAlt (s : State) (v : Word) : (s.setAF v).aAlt = s.aAlt := rfl
@[simp] theorem State.setAF_fAlt (s : State) (v : Word) : (s.setAF v).fAlt = s.fAlt := rfl
@[simp] theorem State.setAF_bAlt (s : State) (v : Word) : (s.setAF v).bAlt = s.bAlt := rfl
@[simp] theorem State.setAF_cAlt (s : State) (v : Word) : (s.setAF v).cAlt = s.cAlt := rfl
@[simp] theorem State.setAF_dAlt (s : State) (v : Word) : (s.setAF v).dAlt = s.dAlt := rfl
@[simp] theorem State.setAF_eAlt (s : State) (v : Word) : (s.setAF v).eAlt = s.eAlt := rfl
@[simp] theorem State.setAF_hAlt (s : State) (v : Word) : (s.setAF v).hAlt = s.hAlt := rfl
@[simp] theorem State.setAF_lAlt (s : State) (v : Word) : (s.setAF v).lAlt = s.lAlt := rfl
@[simp] theorem State.setAF_ix (s : State) (v : Word) : (s.setAF v).ix = s.ix := rfl
@[simp] theorem State.setAF_iy (s : State) (v : Word) : (s.setAF v).iy = s.iy := rfl
@[simp] theorem State.setAF_sp (s : State) (v : Word) : (s.setAF v).sp = s.sp := rfl
@[simp] theorem State.setAF_pc (s : State) (v : Word) : (s.setAF v).pc = s.pc := rfl
@[simp] theorem State.setAF_iReg (s : State) (v : Word) : (s.setAF v).iReg = s.iReg := rfl
@[simp] theorem State.setAF_rReg (s : State) (v : Word) : (s.setAF v).rReg = s.rReg := rfl
@[simp] theorem State.setAF_iff1 (s : State) (v : Word) : (s.setAF v).iff1 = s.iff1 := rfl
@[simp] theorem State.setAF_iff2 (s : State) (v : Word) : (s.setAF v).iff2 = s.iff2 := rfl
@[simp] theorem State.setAF_im (s : State) (v : Word) : (s.setAF v).im = s.im := rfl
@[simp] theorem State.setAF_halted (s : State) (v : Word) : (s.setAF v).halted = s.halted := rfl
@[simp] theorem State.setAF_nmiPending (s : State) (v : Word) : (s.setAF v).nmiPending = s.nmiPending := rfl
@[simp] theorem State.setAF_mem (s : State) (v : Word) : (s.setAF v).mem = s.mem := rfl
@[simp] theorem State.setAF_memMap (s : State) (v : Word) : (s.setAF v).memMap = s.memMap := rfl
@[simp] theorem State.setAF_inputs (s : State) (v : Word) : (s.setAF v).inputs = s.inputs := rfl
@[simp] theorem State.setAF_ioIn (s : State) (v : Word) : (s.setAF v).ioIn = s.ioIn := rfl
@[simp] theorem State.setAF_memIn (s : State) (v : Word) : (s.setAF v).memIn = s.memIn := rfl
@[simp] theorem State.setAF_repeating (s : State) (v : Word) : (s.setAF v).repeating = s.repeating := rfl
@[simp] theorem State.setAF_trace (s : State) (v : Word) : (s.setAF v).trace = s.trace := rfl
@[simp] theorem State.setAF_draws (s : State) (v : Word) : (s.setAF v).draws = s.draws := rfl
@[simp] theorem State.setAF_cell (s : State) (v : Word) (x : Word) : (s.setAF v).cell x = s.cell x := rfl
@[simp] theorem State.setAF_holds (s : State) (v : Word) (x : Word) : (s.setAF v).holds x = s.holds x := rfl
@[simp] theorem State.setAF_keeps (s : State) (v : Word) (x : Word) : (s.setAF v).keeps x = s.keeps x := rfl
@[simp] theorem State.setAF_readByte (s : State) (v : Word) (x : Word) : (s.setAF v).readByte x = s.readByte x := rfl
@[simp] theorem State.setAF_bc (s : State) (v : Word) : (s.setAF v).bc = s.bc := rfl
@[simp] theorem State.setAF_de (s : State) (v : Word) : (s.setAF v).de = s.de := rfl
@[simp] theorem State.setAF_hl (s : State) (v : Word) : (s.setAF v).hl = s.hl := rfl

@[simp] theorem State.setIX_a (s : State) (v : Word) : (s.setIX v).a = s.a := rfl
@[simp] theorem State.setIX_f (s : State) (v : Word) : (s.setIX v).f = s.f := rfl
@[simp] theorem State.setIX_b (s : State) (v : Word) : (s.setIX v).b = s.b := rfl
@[simp] theorem State.setIX_c (s : State) (v : Word) : (s.setIX v).c = s.c := rfl
@[simp] theorem State.setIX_d (s : State) (v : Word) : (s.setIX v).d = s.d := rfl
@[simp] theorem State.setIX_e (s : State) (v : Word) : (s.setIX v).e = s.e := rfl
@[simp] theorem State.setIX_h (s : State) (v : Word) : (s.setIX v).h = s.h := rfl
@[simp] theorem State.setIX_l (s : State) (v : Word) : (s.setIX v).l = s.l := rfl
@[simp] theorem State.setIX_aAlt (s : State) (v : Word) : (s.setIX v).aAlt = s.aAlt := rfl
@[simp] theorem State.setIX_fAlt (s : State) (v : Word) : (s.setIX v).fAlt = s.fAlt := rfl
@[simp] theorem State.setIX_bAlt (s : State) (v : Word) : (s.setIX v).bAlt = s.bAlt := rfl
@[simp] theorem State.setIX_cAlt (s : State) (v : Word) : (s.setIX v).cAlt = s.cAlt := rfl
@[simp] theorem State.setIX_dAlt (s : State) (v : Word) : (s.setIX v).dAlt = s.dAlt := rfl
@[simp] theorem State.setIX_eAlt (s : State) (v : Word) : (s.setIX v).eAlt = s.eAlt := rfl
@[simp] theorem State.setIX_hAlt (s : State) (v : Word) : (s.setIX v).hAlt = s.hAlt := rfl
@[simp] theorem State.setIX_lAlt (s : State) (v : Word) : (s.setIX v).lAlt = s.lAlt := rfl
@[simp] theorem State.setIX_ix (s : State) (v : Word) : (s.setIX v).ix = v := rfl
@[simp] theorem State.setIX_iy (s : State) (v : Word) : (s.setIX v).iy = s.iy := rfl
@[simp] theorem State.setIX_sp (s : State) (v : Word) : (s.setIX v).sp = s.sp := rfl
@[simp] theorem State.setIX_pc (s : State) (v : Word) : (s.setIX v).pc = s.pc := rfl
@[simp] theorem State.setIX_iReg (s : State) (v : Word) : (s.setIX v).iReg = s.iReg := rfl
@[simp] theorem State.setIX_rReg (s : State) (v : Word) : (s.setIX v).rReg = s.rReg := rfl
@[simp] theorem State.setIX_iff1 (s : State) (v : Word) : (s.setIX v).iff1 = s.iff1 := rfl
@[simp] theorem State.setIX_iff2 (s : State) (v : Word) : (s.setIX v).iff2 = s.iff2 := rfl
@[simp] theorem State.setIX_im (s : State) (v : Word) : (s.setIX v).im = s.im := rfl
@[simp] theorem State.setIX_halted (s : State) (v : Word) : (s.setIX v).halted = s.halted := rfl
@[simp] theorem State.setIX_nmiPending (s : State) (v : Word) : (s.setIX v).nmiPending = s.nmiPending := rfl
@[simp] theorem State.setIX_mem (s : State) (v : Word) : (s.setIX v).mem = s.mem := rfl
@[simp] theorem State.setIX_memMap (s : State) (v : Word) : (s.setIX v).memMap = s.memMap := rfl
@[simp] theorem State.setIX_inputs (s : State) (v : Word) : (s.setIX v).inputs = s.inputs := rfl
@[simp] theorem State.setIX_ioIn (s : State) (v : Word) : (s.setIX v).ioIn = s.ioIn := rfl
@[simp] theorem State.setIX_memIn (s : State) (v : Word) : (s.setIX v).memIn = s.memIn := rfl
@[simp] theorem State.setIX_repeating (s : State) (v : Word) : (s.setIX v).repeating = s.repeating := rfl
@[simp] theorem State.setIX_trace (s : State) (v : Word) : (s.setIX v).trace = s.trace := rfl
@[simp] theorem State.setIX_draws (s : State) (v : Word) : (s.setIX v).draws = s.draws := rfl
@[simp] theorem State.setIX_cell (s : State) (v : Word) (x : Word) : (s.setIX v).cell x = s.cell x := rfl
@[simp] theorem State.setIX_holds (s : State) (v : Word) (x : Word) : (s.setIX v).holds x = s.holds x := rfl
@[simp] theorem State.setIX_keeps (s : State) (v : Word) (x : Word) : (s.setIX v).keeps x = s.keeps x := rfl
@[simp] theorem State.setIX_readByte (s : State) (v : Word) (x : Word) : (s.setIX v).readByte x = s.readByte x := rfl
@[simp] theorem State.setIX_flags (s : State) (v : Word) : (s.setIX v).flags = s.flags := rfl
@[simp] theorem State.setIX_bc (s : State) (v : Word) : (s.setIX v).bc = s.bc := rfl
@[simp] theorem State.setIX_de (s : State) (v : Word) : (s.setIX v).de = s.de := rfl
@[simp] theorem State.setIX_hl (s : State) (v : Word) : (s.setIX v).hl = s.hl := rfl

@[simp] theorem State.setIY_a (s : State) (v : Word) : (s.setIY v).a = s.a := rfl
@[simp] theorem State.setIY_f (s : State) (v : Word) : (s.setIY v).f = s.f := rfl
@[simp] theorem State.setIY_b (s : State) (v : Word) : (s.setIY v).b = s.b := rfl
@[simp] theorem State.setIY_c (s : State) (v : Word) : (s.setIY v).c = s.c := rfl
@[simp] theorem State.setIY_d (s : State) (v : Word) : (s.setIY v).d = s.d := rfl
@[simp] theorem State.setIY_e (s : State) (v : Word) : (s.setIY v).e = s.e := rfl
@[simp] theorem State.setIY_h (s : State) (v : Word) : (s.setIY v).h = s.h := rfl
@[simp] theorem State.setIY_l (s : State) (v : Word) : (s.setIY v).l = s.l := rfl
@[simp] theorem State.setIY_aAlt (s : State) (v : Word) : (s.setIY v).aAlt = s.aAlt := rfl
@[simp] theorem State.setIY_fAlt (s : State) (v : Word) : (s.setIY v).fAlt = s.fAlt := rfl
@[simp] theorem State.setIY_bAlt (s : State) (v : Word) : (s.setIY v).bAlt = s.bAlt := rfl
@[simp] theorem State.setIY_cAlt (s : State) (v : Word) : (s.setIY v).cAlt = s.cAlt := rfl
@[simp] theorem State.setIY_dAlt (s : State) (v : Word) : (s.setIY v).dAlt = s.dAlt := rfl
@[simp] theorem State.setIY_eAlt (s : State) (v : Word) : (s.setIY v).eAlt = s.eAlt := rfl
@[simp] theorem State.setIY_hAlt (s : State) (v : Word) : (s.setIY v).hAlt = s.hAlt := rfl
@[simp] theorem State.setIY_lAlt (s : State) (v : Word) : (s.setIY v).lAlt = s.lAlt := rfl
@[simp] theorem State.setIY_ix (s : State) (v : Word) : (s.setIY v).ix = s.ix := rfl
@[simp] theorem State.setIY_iy (s : State) (v : Word) : (s.setIY v).iy = v := rfl
@[simp] theorem State.setIY_sp (s : State) (v : Word) : (s.setIY v).sp = s.sp := rfl
@[simp] theorem State.setIY_pc (s : State) (v : Word) : (s.setIY v).pc = s.pc := rfl
@[simp] theorem State.setIY_iReg (s : State) (v : Word) : (s.setIY v).iReg = s.iReg := rfl
@[simp] theorem State.setIY_rReg (s : State) (v : Word) : (s.setIY v).rReg = s.rReg := rfl
@[simp] theorem State.setIY_iff1 (s : State) (v : Word) : (s.setIY v).iff1 = s.iff1 := rfl
@[simp] theorem State.setIY_iff2 (s : State) (v : Word) : (s.setIY v).iff2 = s.iff2 := rfl
@[simp] theorem State.setIY_im (s : State) (v : Word) : (s.setIY v).im = s.im := rfl
@[simp] theorem State.setIY_halted (s : State) (v : Word) : (s.setIY v).halted = s.halted := rfl
@[simp] theorem State.setIY_nmiPending (s : State) (v : Word) : (s.setIY v).nmiPending = s.nmiPending := rfl
@[simp] theorem State.setIY_mem (s : State) (v : Word) : (s.setIY v).mem = s.mem := rfl
@[simp] theorem State.setIY_memMap (s : State) (v : Word) : (s.setIY v).memMap = s.memMap := rfl
@[simp] theorem State.setIY_inputs (s : State) (v : Word) : (s.setIY v).inputs = s.inputs := rfl
@[simp] theorem State.setIY_ioIn (s : State) (v : Word) : (s.setIY v).ioIn = s.ioIn := rfl
@[simp] theorem State.setIY_memIn (s : State) (v : Word) : (s.setIY v).memIn = s.memIn := rfl
@[simp] theorem State.setIY_repeating (s : State) (v : Word) : (s.setIY v).repeating = s.repeating := rfl
@[simp] theorem State.setIY_trace (s : State) (v : Word) : (s.setIY v).trace = s.trace := rfl
@[simp] theorem State.setIY_draws (s : State) (v : Word) : (s.setIY v).draws = s.draws := rfl
@[simp] theorem State.setIY_cell (s : State) (v : Word) (x : Word) : (s.setIY v).cell x = s.cell x := rfl
@[simp] theorem State.setIY_holds (s : State) (v : Word) (x : Word) : (s.setIY v).holds x = s.holds x := rfl
@[simp] theorem State.setIY_keeps (s : State) (v : Word) (x : Word) : (s.setIY v).keeps x = s.keeps x := rfl
@[simp] theorem State.setIY_readByte (s : State) (v : Word) (x : Word) : (s.setIY v).readByte x = s.readByte x := rfl
@[simp] theorem State.setIY_flags (s : State) (v : Word) : (s.setIY v).flags = s.flags := rfl
@[simp] theorem State.setIY_bc (s : State) (v : Word) : (s.setIY v).bc = s.bc := rfl
@[simp] theorem State.setIY_de (s : State) (v : Word) : (s.setIY v).de = s.de := rfl
@[simp] theorem State.setIY_hl (s : State) (v : Word) : (s.setIY v).hl = s.hl := rfl

@[simp] theorem State.setSP_a (s : State) (v : Word) : (s.setSP v).a = s.a := rfl
@[simp] theorem State.setSP_f (s : State) (v : Word) : (s.setSP v).f = s.f := rfl
@[simp] theorem State.setSP_b (s : State) (v : Word) : (s.setSP v).b = s.b := rfl
@[simp] theorem State.setSP_c (s : State) (v : Word) : (s.setSP v).c = s.c := rfl
@[simp] theorem State.setSP_d (s : State) (v : Word) : (s.setSP v).d = s.d := rfl
@[simp] theorem State.setSP_e (s : State) (v : Word) : (s.setSP v).e = s.e := rfl
@[simp] theorem State.setSP_h (s : State) (v : Word) : (s.setSP v).h = s.h := rfl
@[simp] theorem State.setSP_l (s : State) (v : Word) : (s.setSP v).l = s.l := rfl
@[simp] theorem State.setSP_aAlt (s : State) (v : Word) : (s.setSP v).aAlt = s.aAlt := rfl
@[simp] theorem State.setSP_fAlt (s : State) (v : Word) : (s.setSP v).fAlt = s.fAlt := rfl
@[simp] theorem State.setSP_bAlt (s : State) (v : Word) : (s.setSP v).bAlt = s.bAlt := rfl
@[simp] theorem State.setSP_cAlt (s : State) (v : Word) : (s.setSP v).cAlt = s.cAlt := rfl
@[simp] theorem State.setSP_dAlt (s : State) (v : Word) : (s.setSP v).dAlt = s.dAlt := rfl
@[simp] theorem State.setSP_eAlt (s : State) (v : Word) : (s.setSP v).eAlt = s.eAlt := rfl
@[simp] theorem State.setSP_hAlt (s : State) (v : Word) : (s.setSP v).hAlt = s.hAlt := rfl
@[simp] theorem State.setSP_lAlt (s : State) (v : Word) : (s.setSP v).lAlt = s.lAlt := rfl
@[simp] theorem State.setSP_ix (s : State) (v : Word) : (s.setSP v).ix = s.ix := rfl
@[simp] theorem State.setSP_iy (s : State) (v : Word) : (s.setSP v).iy = s.iy := rfl
@[simp] theorem State.setSP_sp (s : State) (v : Word) : (s.setSP v).sp = v := rfl
@[simp] theorem State.setSP_pc (s : State) (v : Word) : (s.setSP v).pc = s.pc := rfl
@[simp] theorem State.setSP_iReg (s : State) (v : Word) : (s.setSP v).iReg = s.iReg := rfl
@[simp] theorem State.setSP_rReg (s : State) (v : Word) : (s.setSP v).rReg = s.rReg := rfl
@[simp] theorem State.setSP_iff1 (s : State) (v : Word) : (s.setSP v).iff1 = s.iff1 := rfl
@[simp] theorem State.setSP_iff2 (s : State) (v : Word) : (s.setSP v).iff2 = s.iff2 := rfl
@[simp] theorem State.setSP_im (s : State) (v : Word) : (s.setSP v).im = s.im := rfl
@[simp] theorem State.setSP_halted (s : State) (v : Word) : (s.setSP v).halted = s.halted := rfl
@[simp] theorem State.setSP_nmiPending (s : State) (v : Word) : (s.setSP v).nmiPending = s.nmiPending := rfl
@[simp] theorem State.setSP_mem (s : State) (v : Word) : (s.setSP v).mem = s.mem := rfl
@[simp] theorem State.setSP_memMap (s : State) (v : Word) : (s.setSP v).memMap = s.memMap := rfl
@[simp] theorem State.setSP_inputs (s : State) (v : Word) : (s.setSP v).inputs = s.inputs := rfl
@[simp] theorem State.setSP_ioIn (s : State) (v : Word) : (s.setSP v).ioIn = s.ioIn := rfl
@[simp] theorem State.setSP_memIn (s : State) (v : Word) : (s.setSP v).memIn = s.memIn := rfl
@[simp] theorem State.setSP_repeating (s : State) (v : Word) : (s.setSP v).repeating = s.repeating := rfl
@[simp] theorem State.setSP_trace (s : State) (v : Word) : (s.setSP v).trace = s.trace := rfl
@[simp] theorem State.setSP_draws (s : State) (v : Word) : (s.setSP v).draws = s.draws := rfl
@[simp] theorem State.setSP_cell (s : State) (v : Word) (x : Word) : (s.setSP v).cell x = s.cell x := rfl
@[simp] theorem State.setSP_holds (s : State) (v : Word) (x : Word) : (s.setSP v).holds x = s.holds x := rfl
@[simp] theorem State.setSP_keeps (s : State) (v : Word) (x : Word) : (s.setSP v).keeps x = s.keeps x := rfl
@[simp] theorem State.setSP_readByte (s : State) (v : Word) (x : Word) : (s.setSP v).readByte x = s.readByte x := rfl
@[simp] theorem State.setSP_flags (s : State) (v : Word) : (s.setSP v).flags = s.flags := rfl
@[simp] theorem State.setSP_bc (s : State) (v : Word) : (s.setSP v).bc = s.bc := rfl
@[simp] theorem State.setSP_de (s : State) (v : Word) : (s.setSP v).de = s.de := rfl
@[simp] theorem State.setSP_hl (s : State) (v : Word) : (s.setSP v).hl = s.hl := rfl

@[simp] theorem State.setPC_a (s : State) (v : Word) : (s.setPC v).a = s.a := rfl
@[simp] theorem State.setPC_f (s : State) (v : Word) : (s.setPC v).f = s.f := rfl
@[simp] theorem State.setPC_b (s : State) (v : Word) : (s.setPC v).b = s.b := rfl
@[simp] theorem State.setPC_c (s : State) (v : Word) : (s.setPC v).c = s.c := rfl
@[simp] theorem State.setPC_d (s : State) (v : Word) : (s.setPC v).d = s.d := rfl
@[simp] theorem State.setPC_e (s : State) (v : Word) : (s.setPC v).e = s.e := rfl
@[simp] theorem State.setPC_h (s : State) (v : Word) : (s.setPC v).h = s.h := rfl
@[simp] theorem State.setPC_l (s : State) (v : Word) : (s.setPC v).l = s.l := rfl
@[simp] theorem State.setPC_aAlt (s : State) (v : Word) : (s.setPC v).aAlt = s.aAlt := rfl
@[simp] theorem State.setPC_fAlt (s : State) (v : Word) : (s.setPC v).fAlt = s.fAlt := rfl
@[simp] theorem State.setPC_bAlt (s : State) (v : Word) : (s.setPC v).bAlt = s.bAlt := rfl
@[simp] theorem State.setPC_cAlt (s : State) (v : Word) : (s.setPC v).cAlt = s.cAlt := rfl
@[simp] theorem State.setPC_dAlt (s : State) (v : Word) : (s.setPC v).dAlt = s.dAlt := rfl
@[simp] theorem State.setPC_eAlt (s : State) (v : Word) : (s.setPC v).eAlt = s.eAlt := rfl
@[simp] theorem State.setPC_hAlt (s : State) (v : Word) : (s.setPC v).hAlt = s.hAlt := rfl
@[simp] theorem State.setPC_lAlt (s : State) (v : Word) : (s.setPC v).lAlt = s.lAlt := rfl
@[simp] theorem State.setPC_ix (s : State) (v : Word) : (s.setPC v).ix = s.ix := rfl
@[simp] theorem State.setPC_iy (s : State) (v : Word) : (s.setPC v).iy = s.iy := rfl
@[simp] theorem State.setPC_sp (s : State) (v : Word) : (s.setPC v).sp = s.sp := rfl
@[simp] theorem State.setPC_pc (s : State) (v : Word) : (s.setPC v).pc = v := rfl
@[simp] theorem State.setPC_iReg (s : State) (v : Word) : (s.setPC v).iReg = s.iReg := rfl
@[simp] theorem State.setPC_rReg (s : State) (v : Word) : (s.setPC v).rReg = s.rReg := rfl
@[simp] theorem State.setPC_iff1 (s : State) (v : Word) : (s.setPC v).iff1 = s.iff1 := rfl
@[simp] theorem State.setPC_iff2 (s : State) (v : Word) : (s.setPC v).iff2 = s.iff2 := rfl
@[simp] theorem State.setPC_im (s : State) (v : Word) : (s.setPC v).im = s.im := rfl
@[simp] theorem State.setPC_halted (s : State) (v : Word) : (s.setPC v).halted = s.halted := rfl
@[simp] theorem State.setPC_nmiPending (s : State) (v : Word) : (s.setPC v).nmiPending = s.nmiPending := rfl
@[simp] theorem State.setPC_mem (s : State) (v : Word) : (s.setPC v).mem = s.mem := rfl
@[simp] theorem State.setPC_memMap (s : State) (v : Word) : (s.setPC v).memMap = s.memMap := rfl
@[simp] theorem State.setPC_inputs (s : State) (v : Word) : (s.setPC v).inputs = s.inputs := rfl
@[simp] theorem State.setPC_ioIn (s : State) (v : Word) : (s.setPC v).ioIn = s.ioIn := rfl
@[simp] theorem State.setPC_memIn (s : State) (v : Word) : (s.setPC v).memIn = s.memIn := rfl
@[simp] theorem State.setPC_repeating (s : State) (v : Word) : (s.setPC v).repeating = s.repeating := rfl
@[simp] theorem State.setPC_trace (s : State) (v : Word) : (s.setPC v).trace = s.trace := rfl
@[simp] theorem State.setPC_draws (s : State) (v : Word) : (s.setPC v).draws = s.draws := rfl
@[simp] theorem State.setPC_cell (s : State) (v : Word) (x : Word) : (s.setPC v).cell x = s.cell x := rfl
@[simp] theorem State.setPC_holds (s : State) (v : Word) (x : Word) : (s.setPC v).holds x = s.holds x := rfl
@[simp] theorem State.setPC_keeps (s : State) (v : Word) (x : Word) : (s.setPC v).keeps x = s.keeps x := rfl
@[simp] theorem State.setPC_readByte (s : State) (v : Word) (x : Word) : (s.setPC v).readByte x = s.readByte x := rfl
@[simp] theorem State.setPC_flags (s : State) (v : Word) : (s.setPC v).flags = s.flags := rfl
@[simp] theorem State.setPC_bc (s : State) (v : Word) : (s.setPC v).bc = s.bc := rfl
@[simp] theorem State.setPC_de (s : State) (v : Word) : (s.setPC v).de = s.de := rfl
@[simp] theorem State.setPC_hl (s : State) (v : Word) : (s.setPC v).hl = s.hl := rfl

@[simp] theorem State.setI_a (s : State) (v : Byte) : (s.setI v).a = s.a := rfl
@[simp] theorem State.setI_f (s : State) (v : Byte) : (s.setI v).f = s.f := rfl
@[simp] theorem State.setI_b (s : State) (v : Byte) : (s.setI v).b = s.b := rfl
@[simp] theorem State.setI_c (s : State) (v : Byte) : (s.setI v).c = s.c := rfl
@[simp] theorem State.setI_d (s : State) (v : Byte) : (s.setI v).d = s.d := rfl
@[simp] theorem State.setI_e (s : State) (v : Byte) : (s.setI v).e = s.e := rfl
@[simp] theorem State.setI_h (s : State) (v : Byte) : (s.setI v).h = s.h := rfl
@[simp] theorem State.setI_l (s : State) (v : Byte) : (s.setI v).l = s.l := rfl
@[simp] theorem State.setI_aAlt (s : State) (v : Byte) : (s.setI v).aAlt = s.aAlt := rfl
@[simp] theorem State.setI_fAlt (s : State) (v : Byte) : (s.setI v).fAlt = s.fAlt := rfl
@[simp] theorem State.setI_bAlt (s : State) (v : Byte) : (s.setI v).bAlt = s.bAlt := rfl
@[simp] theorem State.setI_cAlt (s : State) (v : Byte) : (s.setI v).cAlt = s.cAlt := rfl
@[simp] theorem State.setI_dAlt (s : State) (v : Byte) : (s.setI v).dAlt = s.dAlt := rfl
@[simp] theorem State.setI_eAlt (s : State) (v : Byte) : (s.setI v).eAlt = s.eAlt := rfl
@[simp] theorem State.setI_hAlt (s : State) (v : Byte) : (s.setI v).hAlt = s.hAlt := rfl
@[simp] theorem State.setI_lAlt (s : State) (v : Byte) : (s.setI v).lAlt = s.lAlt := rfl
@[simp] theorem State.setI_ix (s : State) (v : Byte) : (s.setI v).ix = s.ix := rfl
@[simp] theorem State.setI_iy (s : State) (v : Byte) : (s.setI v).iy = s.iy := rfl
@[simp] theorem State.setI_sp (s : State) (v : Byte) : (s.setI v).sp = s.sp := rfl
@[simp] theorem State.setI_pc (s : State) (v : Byte) : (s.setI v).pc = s.pc := rfl
@[simp] theorem State.setI_iReg (s : State) (v : Byte) : (s.setI v).iReg = v := rfl
@[simp] theorem State.setI_rReg (s : State) (v : Byte) : (s.setI v).rReg = s.rReg := rfl
@[simp] theorem State.setI_iff1 (s : State) (v : Byte) : (s.setI v).iff1 = s.iff1 := rfl
@[simp] theorem State.setI_iff2 (s : State) (v : Byte) : (s.setI v).iff2 = s.iff2 := rfl
@[simp] theorem State.setI_im (s : State) (v : Byte) : (s.setI v).im = s.im := rfl
@[simp] theorem State.setI_halted (s : State) (v : Byte) : (s.setI v).halted = s.halted := rfl
@[simp] theorem State.setI_nmiPending (s : State) (v : Byte) : (s.setI v).nmiPending = s.nmiPending := rfl
@[simp] theorem State.setI_mem (s : State) (v : Byte) : (s.setI v).mem = s.mem := rfl
@[simp] theorem State.setI_memMap (s : State) (v : Byte) : (s.setI v).memMap = s.memMap := rfl
@[simp] theorem State.setI_inputs (s : State) (v : Byte) : (s.setI v).inputs = s.inputs := rfl
@[simp] theorem State.setI_ioIn (s : State) (v : Byte) : (s.setI v).ioIn = s.ioIn := rfl
@[simp] theorem State.setI_memIn (s : State) (v : Byte) : (s.setI v).memIn = s.memIn := rfl
@[simp] theorem State.setI_repeating (s : State) (v : Byte) : (s.setI v).repeating = s.repeating := rfl
@[simp] theorem State.setI_trace (s : State) (v : Byte) : (s.setI v).trace = s.trace := rfl
@[simp] theorem State.setI_draws (s : State) (v : Byte) : (s.setI v).draws = s.draws := rfl
@[simp] theorem State.setI_cell (s : State) (v : Byte) (x : Word) : (s.setI v).cell x = s.cell x := rfl
@[simp] theorem State.setI_holds (s : State) (v : Byte) (x : Word) : (s.setI v).holds x = s.holds x := rfl
@[simp] theorem State.setI_keeps (s : State) (v : Byte) (x : Word) : (s.setI v).keeps x = s.keeps x := rfl
@[simp] theorem State.setI_readByte (s : State) (v : Byte) (x : Word) : (s.setI v).readByte x = s.readByte x := rfl
@[simp] theorem State.setI_flags (s : State) (v : Byte) : (s.setI v).flags = s.flags := rfl
@[simp] theorem State.setI_bc (s : State) (v : Byte) : (s.setI v).bc = s.bc := rfl
@[simp] theorem State.setI_de (s : State) (v : Byte) : (s.setI v).de = s.de := rfl
@[simp] theorem State.setI_hl (s : State) (v : Byte) : (s.setI v).hl = s.hl := rfl

@[simp] theorem State.setR_a (s : State) (v : Byte) : (s.setR v).a = s.a := rfl
@[simp] theorem State.setR_f (s : State) (v : Byte) : (s.setR v).f = s.f := rfl
@[simp] theorem State.setR_b (s : State) (v : Byte) : (s.setR v).b = s.b := rfl
@[simp] theorem State.setR_c (s : State) (v : Byte) : (s.setR v).c = s.c := rfl
@[simp] theorem State.setR_d (s : State) (v : Byte) : (s.setR v).d = s.d := rfl
@[simp] theorem State.setR_e (s : State) (v : Byte) : (s.setR v).e = s.e := rfl
@[simp] theorem State.setR_h (s : State) (v : Byte) : (s.setR v).h = s.h := rfl
@[simp] theorem State.setR_l (s : State) (v : Byte) : (s.setR v).l = s.l := rfl
@[simp] theorem State.setR_aAlt (s : State) (v : Byte) : (s.setR v).aAlt = s.aAlt := rfl
@[simp] theorem State.setR_fAlt (s : State) (v : Byte) : (s.setR v).fAlt = s.fAlt := rfl
@[simp] theorem State.setR_bAlt (s : State) (v : Byte) : (s.setR v).bAlt = s.bAlt := rfl
@[simp] theorem State.setR_cAlt (s : State) (v : Byte) : (s.setR v).cAlt = s.cAlt := rfl
@[simp] theorem State.setR_dAlt (s : State) (v : Byte) : (s.setR v).dAlt = s.dAlt := rfl
@[simp] theorem State.setR_eAlt (s : State) (v : Byte) : (s.setR v).eAlt = s.eAlt := rfl
@[simp] theorem State.setR_hAlt (s : State) (v : Byte) : (s.setR v).hAlt = s.hAlt := rfl
@[simp] theorem State.setR_lAlt (s : State) (v : Byte) : (s.setR v).lAlt = s.lAlt := rfl
@[simp] theorem State.setR_ix (s : State) (v : Byte) : (s.setR v).ix = s.ix := rfl
@[simp] theorem State.setR_iy (s : State) (v : Byte) : (s.setR v).iy = s.iy := rfl
@[simp] theorem State.setR_sp (s : State) (v : Byte) : (s.setR v).sp = s.sp := rfl
@[simp] theorem State.setR_pc (s : State) (v : Byte) : (s.setR v).pc = s.pc := rfl
@[simp] theorem State.setR_iReg (s : State) (v : Byte) : (s.setR v).iReg = s.iReg := rfl
@[simp] theorem State.setR_rReg (s : State) (v : Byte) : (s.setR v).rReg = v := rfl
@[simp] theorem State.setR_iff1 (s : State) (v : Byte) : (s.setR v).iff1 = s.iff1 := rfl
@[simp] theorem State.setR_iff2 (s : State) (v : Byte) : (s.setR v).iff2 = s.iff2 := rfl
@[simp] theorem State.setR_im (s : State) (v : Byte) : (s.setR v).im = s.im := rfl
@[simp] theorem State.setR_halted (s : State) (v : Byte) : (s.setR v).halted = s.halted := rfl
@[simp] theorem State.setR_nmiPending (s : State) (v : Byte) : (s.setR v).nmiPending = s.nmiPending := rfl
@[simp] theorem State.setR_mem (s : State) (v : Byte) : (s.setR v).mem = s.mem := rfl
@[simp] theorem State.setR_memMap (s : State) (v : Byte) : (s.setR v).memMap = s.memMap := rfl
@[simp] theorem State.setR_inputs (s : State) (v : Byte) : (s.setR v).inputs = s.inputs := rfl
@[simp] theorem State.setR_ioIn (s : State) (v : Byte) : (s.setR v).ioIn = s.ioIn := rfl
@[simp] theorem State.setR_memIn (s : State) (v : Byte) : (s.setR v).memIn = s.memIn := rfl
@[simp] theorem State.setR_repeating (s : State) (v : Byte) : (s.setR v).repeating = s.repeating := rfl
@[simp] theorem State.setR_trace (s : State) (v : Byte) : (s.setR v).trace = s.trace := rfl
@[simp] theorem State.setR_draws (s : State) (v : Byte) : (s.setR v).draws = s.draws := rfl
@[simp] theorem State.setR_cell (s : State) (v : Byte) (x : Word) : (s.setR v).cell x = s.cell x := rfl
@[simp] theorem State.setR_holds (s : State) (v : Byte) (x : Word) : (s.setR v).holds x = s.holds x := rfl
@[simp] theorem State.setR_keeps (s : State) (v : Byte) (x : Word) : (s.setR v).keeps x = s.keeps x := rfl
@[simp] theorem State.setR_readByte (s : State) (v : Byte) (x : Word) : (s.setR v).readByte x = s.readByte x := rfl
@[simp] theorem State.setR_flags (s : State) (v : Byte) : (s.setR v).flags = s.flags := rfl
@[simp] theorem State.setR_bc (s : State) (v : Byte) : (s.setR v).bc = s.bc := rfl
@[simp] theorem State.setR_de (s : State) (v : Byte) : (s.setR v).de = s.de := rfl
@[simp] theorem State.setR_hl (s : State) (v : Byte) : (s.setR v).hl = s.hl := rfl

@[simp] theorem State.setIff_a (s : State) (v1 v2 : Bool) : (s.setIff v1 v2).a = s.a := rfl
@[simp] theorem State.setIff_f (s : State) (v1 v2 : Bool) : (s.setIff v1 v2).f = s.f := rfl
@[simp] theorem State.setIff_b (s : State) (v1 v2 : Bool) : (s.setIff v1 v2).b = s.b := rfl
@[simp] theorem State.setIff_c (s : State) (v1 v2 : Bool) : (s.setIff v1 v2).c = s.c := rfl
@[simp] theorem State.setIff_d (s : State) (v1 v2 : Bool) : (s.setIff v1 v2).d = s.d := rfl
@[simp] theorem State.setIff_e (s : State) (v1 v2 : Bool) : (s.setIff v1 v2).e = s.e := rfl
@[simp] theorem State.setIff_h (s : State) (v1 v2 : Bool) : (s.setIff v1 v2).h = s.h := rfl
@[simp] theorem State.setIff_l (s : State) (v1 v2 : Bool) : (s.setIff v1 v2).l = s.l := rfl
@[simp] theorem State.setIff_aAlt (s : State) (v1 v2 : Bool) : (s.setIff v1 v2).aAlt = s.aAlt := rfl
@[simp] theorem State.setIff_fAlt (s : State) (v1 v2 : Bool) : (s.setIff v1 v2).fAlt = s.fAlt := rfl
@[simp] theorem State.setIff_bAlt (s : State) (v1 v2 : Bool) : (s.setIff v1 v2).bAlt = s.bAlt := rfl
@[simp] theorem State.setIff_cAlt (s : State) (v1 v2 : Bool) : (s.setIff v1 v2).cAlt = s.cAlt := rfl
@[simp] theorem State.setIff_dAlt (s : State) (v1 v2 : Bool) : (s.setIff v1 v2).dAlt = s.dAlt := rfl
@[simp] theorem State.setIff_eAlt (s : State) (v1 v2 : Bool) : (s.setIff v1 v2).eAlt = s.eAlt := rfl
@[simp] theorem State.setIff_hAlt (s : State) (v1 v2 : Bool) : (s.setIff v1 v2).hAlt = s.hAlt := rfl
@[simp] theorem State.setIff_lAlt (s : State) (v1 v2 : Bool) : (s.setIff v1 v2).lAlt = s.lAlt := rfl
@[simp] theorem State.setIff_ix (s : State) (v1 v2 : Bool) : (s.setIff v1 v2).ix = s.ix := rfl
@[simp] theorem State.setIff_iy (s : State) (v1 v2 : Bool) : (s.setIff v1 v2).iy = s.iy := rfl
@[simp] theorem State.setIff_sp (s : State) (v1 v2 : Bool) : (s.setIff v1 v2).sp = s.sp := rfl
@[simp] theorem State.setIff_pc (s : State) (v1 v2 : Bool) : (s.setIff v1 v2).pc = s.pc := rfl
@[simp] theorem State.setIff_iReg (s : State) (v1 v2 : Bool) : (s.setIff v1 v2).iReg = s.iReg := rfl
@[simp] theorem State.setIff_rReg (s : State) (v1 v2 : Bool) : (s.setIff v1 v2).rReg = s.rReg := rfl
@[simp] theorem State.setIff_iff1 (s : State) (v1 v2 : Bool) : (s.setIff v1 v2).iff1 = v1 := rfl
@[simp] theorem State.setIff_iff2 (s : State) (v1 v2 : Bool) : (s.setIff v1 v2).iff2 = v2 := rfl
@[simp] theorem State.setIff_im (s : State) (v1 v2 : Bool) : (s.setIff v1 v2).im = s.im := rfl
@[simp] theorem State.setIff_halted (s : State) (v1 v2 : Bool) : (s.setIff v1 v2).halted = s.halted := rfl
@[simp] theorem State.setIff_nmiPending (s : State) (v1 v2 : Bool) : (s.setIff v1 v2).nmiPending = s.nmiPending := rfl
@[simp] theorem State.setIff_mem (s : State) (v1 v2 : Bool) : (s.setIff v1 v2).mem = s.mem := rfl
@[simp] theorem State.setIff_memMap (s : State) (v1 v2 : Bool) : (s.setIff v1 v2).memMap = s.memMap := rfl
@[simp] theorem State.setIff_inputs (s : State) (v1 v2 : Bool) : (s.setIff v1 v2).inputs = s.inputs := rfl
@[simp] theorem State.setIff_ioIn (s : State) (v1 v2 : Bool) : (s.setIff v1 v2).ioIn = s.ioIn := rfl
@[simp] theorem State.setIff_memIn (s : State) (v1 v2 : Bool) : (s.setIff v1 v2).memIn = s.memIn := rfl
@[simp] theorem State.setIff_repeating (s : State) (v1 v2 : Bool) : (s.setIff v1 v2).repeating = s.repeating := rfl
@[simp] theorem State.setIff_trace (s : State) (v1 v2 : Bool) : (s.setIff v1 v2).trace = s.trace := rfl
@[simp] theorem State.setIff_draws (s : State) (v1 v2 : Bool) : (s.setIff v1 v2).draws = s.draws := rfl
@[simp] theorem State.setIff_cell (s : State) (v1 v2 : Bool) (x : Word) : (s.setIff v1 v2).cell x = s.cell x := rfl
@[simp] theorem State.setIff_holds (s : State) (v1 v2 : Bool) (x : Word) : (s.setIff v1 v2).holds x = s.holds x := rfl
@[simp] theorem State.setIff_keeps (s : State) (v1 v2 : Bool) (x : Word) : (s.setIff v1 v2).keeps x = s.keeps x := rfl
@[simp] theorem State.setIff_readByte (s : State) (v1 v2 : Bool) (x : Word) : (s.setIff v1 v2).readByte x = s.readByte x := rfl
@[simp] theorem State.setIff_flags (s : State) (v1 v2 : Bool) : (s.setIff v1 v2).flags = s.flags := rfl
@[simp] theorem State.setIff_bc (s : State) (v1 v2 : Bool) : (s.setIff v1 v2).bc = s.bc := rfl
@[simp] theorem State.setIff_de (s : State) (v1 v2 : Bool) : (s.setIff v1 v2).de = s.de := rfl
@[simp] theorem State.setIff_hl (s : State) (v1 v2 : Bool) : (s.setIff v1 v2).hl = s.hl := rfl

@[simp] theorem State.setIM_a (s : State) (m : IntMode) : (s.setIM m).a = s.a := rfl
@[simp] theorem State.setIM_f (s : State) (m : IntMode) : (s.setIM m).f = s.f := rfl
@[simp] theorem State.setIM_b (s : State) (m : IntMode) : (s.setIM m).b = s.b := rfl
@[simp] theorem State.setIM_c (s : State) (m : IntMode) : (s.setIM m).c = s.c := rfl
@[simp] theorem State.setIM_d (s : State) (m : IntMode) : (s.setIM m).d = s.d := rfl
@[simp] theorem State.setIM_e (s : State) (m : IntMode) : (s.setIM m).e = s.e := rfl
@[simp] theorem State.setIM_h (s : State) (m : IntMode) : (s.setIM m).h = s.h := rfl
@[simp] theorem State.setIM_l (s : State) (m : IntMode) : (s.setIM m).l = s.l := rfl
@[simp] theorem State.setIM_aAlt (s : State) (m : IntMode) : (s.setIM m).aAlt = s.aAlt := rfl
@[simp] theorem State.setIM_fAlt (s : State) (m : IntMode) : (s.setIM m).fAlt = s.fAlt := rfl
@[simp] theorem State.setIM_bAlt (s : State) (m : IntMode) : (s.setIM m).bAlt = s.bAlt := rfl
@[simp] theorem State.setIM_cAlt (s : State) (m : IntMode) : (s.setIM m).cAlt = s.cAlt := rfl
@[simp] theorem State.setIM_dAlt (s : State) (m : IntMode) : (s.setIM m).dAlt = s.dAlt := rfl
@[simp] theorem State.setIM_eAlt (s : State) (m : IntMode) : (s.setIM m).eAlt = s.eAlt := rfl
@[simp] theorem State.setIM_hAlt (s : State) (m : IntMode) : (s.setIM m).hAlt = s.hAlt := rfl
@[simp] theorem State.setIM_lAlt (s : State) (m : IntMode) : (s.setIM m).lAlt = s.lAlt := rfl
@[simp] theorem State.setIM_ix (s : State) (m : IntMode) : (s.setIM m).ix = s.ix := rfl
@[simp] theorem State.setIM_iy (s : State) (m : IntMode) : (s.setIM m).iy = s.iy := rfl
@[simp] theorem State.setIM_sp (s : State) (m : IntMode) : (s.setIM m).sp = s.sp := rfl
@[simp] theorem State.setIM_pc (s : State) (m : IntMode) : (s.setIM m).pc = s.pc := rfl
@[simp] theorem State.setIM_iReg (s : State) (m : IntMode) : (s.setIM m).iReg = s.iReg := rfl
@[simp] theorem State.setIM_rReg (s : State) (m : IntMode) : (s.setIM m).rReg = s.rReg := rfl
@[simp] theorem State.setIM_iff1 (s : State) (m : IntMode) : (s.setIM m).iff1 = s.iff1 := rfl
@[simp] theorem State.setIM_iff2 (s : State) (m : IntMode) : (s.setIM m).iff2 = s.iff2 := rfl
@[simp] theorem State.setIM_im (s : State) (m : IntMode) : (s.setIM m).im = m := rfl
@[simp] theorem State.setIM_halted (s : State) (m : IntMode) : (s.setIM m).halted = s.halted := rfl
@[simp] theorem State.setIM_nmiPending (s : State) (m : IntMode) : (s.setIM m).nmiPending = s.nmiPending := rfl
@[simp] theorem State.setIM_mem (s : State) (m : IntMode) : (s.setIM m).mem = s.mem := rfl
@[simp] theorem State.setIM_memMap (s : State) (m : IntMode) : (s.setIM m).memMap = s.memMap := rfl
@[simp] theorem State.setIM_inputs (s : State) (m : IntMode) : (s.setIM m).inputs = s.inputs := rfl
@[simp] theorem State.setIM_ioIn (s : State) (m : IntMode) : (s.setIM m).ioIn = s.ioIn := rfl
@[simp] theorem State.setIM_memIn (s : State) (m : IntMode) : (s.setIM m).memIn = s.memIn := rfl
@[simp] theorem State.setIM_repeating (s : State) (m : IntMode) : (s.setIM m).repeating = s.repeating := rfl
@[simp] theorem State.setIM_trace (s : State) (m : IntMode) : (s.setIM m).trace = s.trace := rfl
@[simp] theorem State.setIM_draws (s : State) (m : IntMode) : (s.setIM m).draws = s.draws := rfl
@[simp] theorem State.setIM_cell (s : State) (m : IntMode) (x : Word) : (s.setIM m).cell x = s.cell x := rfl
@[simp] theorem State.setIM_holds (s : State) (m : IntMode) (x : Word) : (s.setIM m).holds x = s.holds x := rfl
@[simp] theorem State.setIM_keeps (s : State) (m : IntMode) (x : Word) : (s.setIM m).keeps x = s.keeps x := rfl
@[simp] theorem State.setIM_readByte (s : State) (m : IntMode) (x : Word) : (s.setIM m).readByte x = s.readByte x := rfl
@[simp] theorem State.setIM_flags (s : State) (m : IntMode) : (s.setIM m).flags = s.flags := rfl
@[simp] theorem State.setIM_bc (s : State) (m : IntMode) : (s.setIM m).bc = s.bc := rfl
@[simp] theorem State.setIM_de (s : State) (m : IntMode) : (s.setIM m).de = s.de := rfl
@[simp] theorem State.setIM_hl (s : State) (m : IntMode) : (s.setIM m).hl = s.hl := rfl

@[simp] theorem State.setHalted_a (s : State) (v : Bool) : (s.setHalted v).a = s.a := rfl
@[simp] theorem State.setHalted_f (s : State) (v : Bool) : (s.setHalted v).f = s.f := rfl
@[simp] theorem State.setHalted_b (s : State) (v : Bool) : (s.setHalted v).b = s.b := rfl
@[simp] theorem State.setHalted_c (s : State) (v : Bool) : (s.setHalted v).c = s.c := rfl
@[simp] theorem State.setHalted_d (s : State) (v : Bool) : (s.setHalted v).d = s.d := rfl
@[simp] theorem State.setHalted_e (s : State) (v : Bool) : (s.setHalted v).e = s.e := rfl
@[simp] theorem State.setHalted_h (s : State) (v : Bool) : (s.setHalted v).h = s.h := rfl
@[simp] theorem State.setHalted_l (s : State) (v : Bool) : (s.setHalted v).l = s.l := rfl
@[simp] theorem State.setHalted_aAlt (s : State) (v : Bool) : (s.setHalted v).aAlt = s.aAlt := rfl
@[simp] theorem State.setHalted_fAlt (s : State) (v : Bool) : (s.setHalted v).fAlt = s.fAlt := rfl
@[simp] theorem State.setHalted_bAlt (s : State) (v : Bool) : (s.setHalted v).bAlt = s.bAlt := rfl
@[simp] theorem State.setHalted_cAlt (s : State) (v : Bool) : (s.setHalted v).cAlt = s.cAlt := rfl
@[simp] theorem State.setHalted_dAlt (s : State) (v : Bool) : (s.setHalted v).dAlt = s.dAlt := rfl
@[simp] theorem State.setHalted_eAlt (s : State) (v : Bool) : (s.setHalted v).eAlt = s.eAlt := rfl
@[simp] theorem State.setHalted_hAlt (s : State) (v : Bool) : (s.setHalted v).hAlt = s.hAlt := rfl
@[simp] theorem State.setHalted_lAlt (s : State) (v : Bool) : (s.setHalted v).lAlt = s.lAlt := rfl
@[simp] theorem State.setHalted_ix (s : State) (v : Bool) : (s.setHalted v).ix = s.ix := rfl
@[simp] theorem State.setHalted_iy (s : State) (v : Bool) : (s.setHalted v).iy = s.iy := rfl
@[simp] theorem State.setHalted_sp (s : State) (v : Bool) : (s.setHalted v).sp = s.sp := rfl
@[simp] theorem State.setHalted_pc (s : State) (v : Bool) : (s.setHalted v).pc = s.pc := rfl
@[simp] theorem State.setHalted_iReg (s : State) (v : Bool) : (s.setHalted v).iReg = s.iReg := rfl
@[simp] theorem State.setHalted_rReg (s : State) (v : Bool) : (s.setHalted v).rReg = s.rReg := rfl
@[simp] theorem State.setHalted_iff1 (s : State) (v : Bool) : (s.setHalted v).iff1 = s.iff1 := rfl
@[simp] theorem State.setHalted_iff2 (s : State) (v : Bool) : (s.setHalted v).iff2 = s.iff2 := rfl
@[simp] theorem State.setHalted_im (s : State) (v : Bool) : (s.setHalted v).im = s.im := rfl
@[simp] theorem State.setHalted_halted (s : State) (v : Bool) : (s.setHalted v).halted = v := rfl
@[simp] theorem State.setHalted_nmiPending (s : State) (v : Bool) : (s.setHalted v).nmiPending = s.nmiPending := rfl
@[simp] theorem State.setHalted_mem (s : State) (v : Bool) : (s.setHalted v).mem = s.mem := rfl
@[simp] theorem State.setHalted_memMap (s : State) (v : Bool) : (s.setHalted v).memMap = s.memMap := rfl
@[simp] theorem State.setHalted_inputs (s : State) (v : Bool) : (s.setHalted v).inputs = s.inputs := rfl
@[simp] theorem State.setHalted_ioIn (s : State) (v : Bool) : (s.setHalted v).ioIn = s.ioIn := rfl
@[simp] theorem State.setHalted_memIn (s : State) (v : Bool) : (s.setHalted v).memIn = s.memIn := rfl
@[simp] theorem State.setHalted_repeating (s : State) (v : Bool) : (s.setHalted v).repeating = s.repeating := rfl
@[simp] theorem State.setHalted_trace (s : State) (v : Bool) : (s.setHalted v).trace = s.trace := rfl
@[simp] theorem State.setHalted_draws (s : State) (v : Bool) : (s.setHalted v).draws = s.draws := rfl
@[simp] theorem State.setHalted_cell (s : State) (v : Bool) (x : Word) : (s.setHalted v).cell x = s.cell x := rfl
@[simp] theorem State.setHalted_holds (s : State) (v : Bool) (x : Word) : (s.setHalted v).holds x = s.holds x := rfl
@[simp] theorem State.setHalted_keeps (s : State) (v : Bool) (x : Word) : (s.setHalted v).keeps x = s.keeps x := rfl
@[simp] theorem State.setHalted_readByte (s : State) (v : Bool) (x : Word) : (s.setHalted v).readByte x = s.readByte x := rfl
@[simp] theorem State.setHalted_flags (s : State) (v : Bool) : (s.setHalted v).flags = s.flags := rfl
@[simp] theorem State.setHalted_bc (s : State) (v : Bool) : (s.setHalted v).bc = s.bc := rfl
@[simp] theorem State.setHalted_de (s : State) (v : Bool) : (s.setHalted v).de = s.de := rfl
@[simp] theorem State.setHalted_hl (s : State) (v : Bool) : (s.setHalted v).hl = s.hl := rfl

@[simp] theorem State.setNmiPending_a (s : State) (v : Bool) : (s.setNmiPending v).a = s.a := rfl
@[simp] theorem State.setNmiPending_f (s : State) (v : Bool) : (s.setNmiPending v).f = s.f := rfl
@[simp] theorem State.setNmiPending_b (s : State) (v : Bool) : (s.setNmiPending v).b = s.b := rfl
@[simp] theorem State.setNmiPending_c (s : State) (v : Bool) : (s.setNmiPending v).c = s.c := rfl
@[simp] theorem State.setNmiPending_d (s : State) (v : Bool) : (s.setNmiPending v).d = s.d := rfl
@[simp] theorem State.setNmiPending_e (s : State) (v : Bool) : (s.setNmiPending v).e = s.e := rfl
@[simp] theorem State.setNmiPending_h (s : State) (v : Bool) : (s.setNmiPending v).h = s.h := rfl
@[simp] theorem State.setNmiPending_l (s : State) (v : Bool) : (s.setNmiPending v).l = s.l := rfl
@[simp] theorem State.setNmiPending_aAlt (s : State) (v : Bool) : (s.setNmiPending v).aAlt = s.aAlt := rfl
@[simp] theorem State.setNmiPending_fAlt (s : State) (v : Bool) : (s.setNmiPending v).fAlt = s.fAlt := rfl
@[simp] theorem State.setNmiPending_bAlt (s : State) (v : Bool) : (s.setNmiPending v).bAlt = s.bAlt := rfl
@[simp] theorem State.setNmiPending_cAlt (s : State) (v : Bool) : (s.setNmiPending v).cAlt = s.cAlt := rfl
@[simp] theorem State.setNmiPending_dAlt (s : State) (v : Bool) : (s.setNmiPending v).dAlt = s.dAlt := rfl
@[simp] theorem State.setNmiPending_eAlt (s : State) (v : Bool) : (s.setNmiPending v).eAlt = s.eAlt := rfl
@[simp] theorem State.setNmiPending_hAlt (s : State) (v : Bool) : (s.setNmiPending v).hAlt = s.hAlt := rfl
@[simp] theorem State.setNmiPending_lAlt (s : State) (v : Bool) : (s.setNmiPending v).lAlt = s.lAlt := rfl
@[simp] theorem State.setNmiPending_ix (s : State) (v : Bool) : (s.setNmiPending v).ix = s.ix := rfl
@[simp] theorem State.setNmiPending_iy (s : State) (v : Bool) : (s.setNmiPending v).iy = s.iy := rfl
@[simp] theorem State.setNmiPending_sp (s : State) (v : Bool) : (s.setNmiPending v).sp = s.sp := rfl
@[simp] theorem State.setNmiPending_pc (s : State) (v : Bool) : (s.setNmiPending v).pc = s.pc := rfl
@[simp] theorem State.setNmiPending_iReg (s : State) (v : Bool) : (s.setNmiPending v).iReg = s.iReg := rfl
@[simp] theorem State.setNmiPending_rReg (s : State) (v : Bool) : (s.setNmiPending v).rReg = s.rReg := rfl
@[simp] theorem State.setNmiPending_iff1 (s : State) (v : Bool) : (s.setNmiPending v).iff1 = s.iff1 := rfl
@[simp] theorem State.setNmiPending_iff2 (s : State) (v : Bool) : (s.setNmiPending v).iff2 = s.iff2 := rfl
@[simp] theorem State.setNmiPending_im (s : State) (v : Bool) : (s.setNmiPending v).im = s.im := rfl
@[simp] theorem State.setNmiPending_halted (s : State) (v : Bool) : (s.setNmiPending v).halted = s.halted := rfl
@[simp] theorem State.setNmiPending_nmiPending (s : State) (v : Bool) : (s.setNmiPending v).nmiPending = v := rfl
@[simp] theorem State.setNmiPending_mem (s : State) (v : Bool) : (s.setNmiPending v).mem = s.mem := rfl
@[simp] theorem State.setNmiPending_memMap (s : State) (v : Bool) : (s.setNmiPending v).memMap = s.memMap := rfl
@[simp] theorem State.setNmiPending_inputs (s : State) (v : Bool) : (s.setNmiPending v).inputs = s.inputs := rfl
@[simp] theorem State.setNmiPending_ioIn (s : State) (v : Bool) : (s.setNmiPending v).ioIn = s.ioIn := rfl
@[simp] theorem State.setNmiPending_memIn (s : State) (v : Bool) : (s.setNmiPending v).memIn = s.memIn := rfl
@[simp] theorem State.setNmiPending_repeating (s : State) (v : Bool) : (s.setNmiPending v).repeating = s.repeating := rfl
@[simp] theorem State.setNmiPending_trace (s : State) (v : Bool) : (s.setNmiPending v).trace = s.trace := rfl
@[simp] theorem State.setNmiPending_draws (s : State) (v : Bool) : (s.setNmiPending v).draws = s.draws := rfl
@[simp] theorem State.setNmiPending_cell (s : State) (v : Bool) (x : Word) : (s.setNmiPending v).cell x = s.cell x := rfl
@[simp] theorem State.setNmiPending_holds (s : State) (v : Bool) (x : Word) : (s.setNmiPending v).holds x = s.holds x := rfl
@[simp] theorem State.setNmiPending_keeps (s : State) (v : Bool) (x : Word) : (s.setNmiPending v).keeps x = s.keeps x := rfl
@[simp] theorem State.setNmiPending_readByte (s : State) (v : Bool) (x : Word) : (s.setNmiPending v).readByte x = s.readByte x := rfl
@[simp] theorem State.setNmiPending_flags (s : State) (v : Bool) : (s.setNmiPending v).flags = s.flags := rfl
@[simp] theorem State.setNmiPending_bc (s : State) (v : Bool) : (s.setNmiPending v).bc = s.bc := rfl
@[simp] theorem State.setNmiPending_de (s : State) (v : Bool) : (s.setNmiPending v).de = s.de := rfl
@[simp] theorem State.setNmiPending_hl (s : State) (v : Bool) : (s.setNmiPending v).hl = s.hl := rfl

@[simp] theorem State.setRepeating_a (s : State) (v : Bool) : (s.setRepeating v).a = s.a := rfl
@[simp] theorem State.setRepeating_f (s : State) (v : Bool) : (s.setRepeating v).f = s.f := rfl
@[simp] theorem State.setRepeating_b (s : State) (v : Bool) : (s.setRepeating v).b = s.b := rfl
@[simp] theorem State.setRepeating_c (s : State) (v : Bool) : (s.setRepeating v).c = s.c := rfl
@[simp] theorem State.setRepeating_d (s : State) (v : Bool) : (s.setRepeating v).d = s.d := rfl
@[simp] theorem State.setRepeating_e (s : State) (v : Bool) : (s.setRepeating v).e = s.e := rfl
@[simp] theorem State.setRepeating_h (s : State) (v : Bool) : (s.setRepeating v).h = s.h := rfl
@[simp] theorem State.setRepeating_l (s : State) (v : Bool) : (s.setRepeating v).l = s.l := rfl
@[simp] theorem State.setRepeating_aAlt (s : State) (v : Bool) : (s.setRepeating v).aAlt = s.aAlt := rfl
@[simp] theorem State.setRepeating_fAlt (s : State) (v : Bool) : (s.setRepeating v).fAlt = s.fAlt := rfl
@[simp] theorem State.setRepeating_bAlt (s : State) (v : Bool) : (s.setRepeating v).bAlt = s.bAlt := rfl
@[simp] theorem State.setRepeating_cAlt (s : State) (v : Bool) : (s.setRepeating v).cAlt = s.cAlt := rfl
@[simp] theorem State.setRepeating_dAlt (s : State) (v : Bool) : (s.setRepeating v).dAlt = s.dAlt := rfl
@[simp] theorem State.setRepeating_eAlt (s : State) (v : Bool) : (s.setRepeating v).eAlt = s.eAlt := rfl
@[simp] theorem State.setRepeating_hAlt (s : State) (v : Bool) : (s.setRepeating v).hAlt = s.hAlt := rfl
@[simp] theorem State.setRepeating_lAlt (s : State) (v : Bool) : (s.setRepeating v).lAlt = s.lAlt := rfl
@[simp] theorem State.setRepeating_ix (s : State) (v : Bool) : (s.setRepeating v).ix = s.ix := rfl
@[simp] theorem State.setRepeating_iy (s : State) (v : Bool) : (s.setRepeating v).iy = s.iy := rfl
@[simp] theorem State.setRepeating_sp (s : State) (v : Bool) : (s.setRepeating v).sp = s.sp := rfl
@[simp] theorem State.setRepeating_pc (s : State) (v : Bool) : (s.setRepeating v).pc = s.pc := rfl
@[simp] theorem State.setRepeating_iReg (s : State) (v : Bool) : (s.setRepeating v).iReg = s.iReg := rfl
@[simp] theorem State.setRepeating_rReg (s : State) (v : Bool) : (s.setRepeating v).rReg = s.rReg := rfl
@[simp] theorem State.setRepeating_iff1 (s : State) (v : Bool) : (s.setRepeating v).iff1 = s.iff1 := rfl
@[simp] theorem State.setRepeating_iff2 (s : State) (v : Bool) : (s.setRepeating v).iff2 = s.iff2 := rfl
@[simp] theorem State.setRepeating_im (s : State) (v : Bool) : (s.setRepeating v).im = s.im := rfl
@[simp] theorem State.setRepeating_halted (s : State) (v : Bool) : (s.setRepeating v).halted = s.halted := rfl
@[simp] theorem State.setRepeating_nmiPending (s : State) (v : Bool) : (s.setRepeating v).nmiPending = s.nmiPending := rfl
@[simp] theorem State.setRepeating_mem (s : State) (v : Bool) : (s.setRepeating v).mem = s.mem := rfl
@[simp] theorem State.setRepeating_memMap (s : State) (v : Bool) : (s.setRepeating v).memMap = s.memMap := rfl
@[simp] theorem State.setRepeating_inputs (s : State) (v : Bool) : (s.setRepeating v).inputs = s.inputs := rfl
@[simp] theorem State.setRepeating_ioIn (s : State) (v : Bool) : (s.setRepeating v).ioIn = s.ioIn := rfl
@[simp] theorem State.setRepeating_memIn (s : State) (v : Bool) : (s.setRepeating v).memIn = s.memIn := rfl
@[simp] theorem State.setRepeating_repeating (s : State) (v : Bool) : (s.setRepeating v).repeating = v := rfl
@[simp] theorem State.setRepeating_trace (s : State) (v : Bool) : (s.setRepeating v).trace = s.trace := rfl
@[simp] theorem State.setRepeating_draws (s : State) (v : Bool) : (s.setRepeating v).draws = s.draws := rfl
@[simp] theorem State.setRepeating_cell (s : State) (v : Bool) (x : Word) : (s.setRepeating v).cell x = s.cell x := rfl
@[simp] theorem State.setRepeating_holds (s : State) (v : Bool) (x : Word) : (s.setRepeating v).holds x = s.holds x := rfl
@[simp] theorem State.setRepeating_keeps (s : State) (v : Bool) (x : Word) : (s.setRepeating v).keeps x = s.keeps x := rfl
@[simp] theorem State.setRepeating_readByte (s : State) (v : Bool) (x : Word) : (s.setRepeating v).readByte x = s.readByte x := rfl
@[simp] theorem State.setRepeating_flags (s : State) (v : Bool) : (s.setRepeating v).flags = s.flags := rfl
@[simp] theorem State.setRepeating_bc (s : State) (v : Bool) : (s.setRepeating v).bc = s.bc := rfl
@[simp] theorem State.setRepeating_de (s : State) (v : Bool) : (s.setRepeating v).de = s.de := rfl
@[simp] theorem State.setRepeating_hl (s : State) (v : Bool) : (s.setRepeating v).hl = s.hl := rfl

@[simp] theorem State.advance_a (s : State) (len : Nat) : (s.advance len).a = s.a := rfl
@[simp] theorem State.advance_f (s : State) (len : Nat) : (s.advance len).f = s.f := rfl
@[simp] theorem State.advance_b (s : State) (len : Nat) : (s.advance len).b = s.b := rfl
@[simp] theorem State.advance_c (s : State) (len : Nat) : (s.advance len).c = s.c := rfl
@[simp] theorem State.advance_d (s : State) (len : Nat) : (s.advance len).d = s.d := rfl
@[simp] theorem State.advance_e (s : State) (len : Nat) : (s.advance len).e = s.e := rfl
@[simp] theorem State.advance_h (s : State) (len : Nat) : (s.advance len).h = s.h := rfl
@[simp] theorem State.advance_l (s : State) (len : Nat) : (s.advance len).l = s.l := rfl
@[simp] theorem State.advance_aAlt (s : State) (len : Nat) : (s.advance len).aAlt = s.aAlt := rfl
@[simp] theorem State.advance_fAlt (s : State) (len : Nat) : (s.advance len).fAlt = s.fAlt := rfl
@[simp] theorem State.advance_bAlt (s : State) (len : Nat) : (s.advance len).bAlt = s.bAlt := rfl
@[simp] theorem State.advance_cAlt (s : State) (len : Nat) : (s.advance len).cAlt = s.cAlt := rfl
@[simp] theorem State.advance_dAlt (s : State) (len : Nat) : (s.advance len).dAlt = s.dAlt := rfl
@[simp] theorem State.advance_eAlt (s : State) (len : Nat) : (s.advance len).eAlt = s.eAlt := rfl
@[simp] theorem State.advance_hAlt (s : State) (len : Nat) : (s.advance len).hAlt = s.hAlt := rfl
@[simp] theorem State.advance_lAlt (s : State) (len : Nat) : (s.advance len).lAlt = s.lAlt := rfl
@[simp] theorem State.advance_ix (s : State) (len : Nat) : (s.advance len).ix = s.ix := rfl
@[simp] theorem State.advance_iy (s : State) (len : Nat) : (s.advance len).iy = s.iy := rfl
@[simp] theorem State.advance_sp (s : State) (len : Nat) : (s.advance len).sp = s.sp := rfl
@[simp] theorem State.advance_pc (s : State) (len : Nat) : (s.advance len).pc = s.pc + BitVec.ofNat 16 len := rfl
@[simp] theorem State.advance_iReg (s : State) (len : Nat) : (s.advance len).iReg = s.iReg := rfl
@[simp] theorem State.advance_rReg (s : State) (len : Nat) : (s.advance len).rReg = s.rReg := rfl
@[simp] theorem State.advance_iff1 (s : State) (len : Nat) : (s.advance len).iff1 = s.iff1 := rfl
@[simp] theorem State.advance_iff2 (s : State) (len : Nat) : (s.advance len).iff2 = s.iff2 := rfl
@[simp] theorem State.advance_im (s : State) (len : Nat) : (s.advance len).im = s.im := rfl
@[simp] theorem State.advance_halted (s : State) (len : Nat) : (s.advance len).halted = s.halted := rfl
@[simp] theorem State.advance_nmiPending (s : State) (len : Nat) : (s.advance len).nmiPending = s.nmiPending := rfl
@[simp] theorem State.advance_mem (s : State) (len : Nat) : (s.advance len).mem = s.mem := rfl
@[simp] theorem State.advance_memMap (s : State) (len : Nat) : (s.advance len).memMap = s.memMap := rfl
@[simp] theorem State.advance_inputs (s : State) (len : Nat) : (s.advance len).inputs = s.inputs := rfl
@[simp] theorem State.advance_ioIn (s : State) (len : Nat) : (s.advance len).ioIn = s.ioIn := rfl
@[simp] theorem State.advance_memIn (s : State) (len : Nat) : (s.advance len).memIn = s.memIn := rfl
@[simp] theorem State.advance_repeating (s : State) (len : Nat) : (s.advance len).repeating = s.repeating := rfl
@[simp] theorem State.advance_trace (s : State) (len : Nat) : (s.advance len).trace = s.trace := rfl
@[simp] theorem State.advance_draws (s : State) (len : Nat) : (s.advance len).draws = s.draws := rfl
@[simp] theorem State.advance_cell (s : State) (len : Nat) (x : Word) : (s.advance len).cell x = s.cell x := rfl
@[simp] theorem State.advance_holds (s : State) (len : Nat) (x : Word) : (s.advance len).holds x = s.holds x := rfl
@[simp] theorem State.advance_keeps (s : State) (len : Nat) (x : Word) : (s.advance len).keeps x = s.keeps x := rfl
@[simp] theorem State.advance_readByte (s : State) (len : Nat) (x : Word) : (s.advance len).readByte x = s.readByte x := rfl
@[simp] theorem State.advance_flags (s : State) (len : Nat) : (s.advance len).flags = s.flags := rfl
@[simp] theorem State.advance_bc (s : State) (len : Nat) : (s.advance len).bc = s.bc := rfl
@[simp] theorem State.advance_de (s : State) (len : Nat) : (s.advance len).de = s.de := rfl
@[simp] theorem State.advance_hl (s : State) (len : Nat) : (s.advance len).hl = s.hl := rfl

@[simp] theorem State.swapAF_a (s : State) : (s.swapAF).a = s.aAlt := rfl
@[simp] theorem State.swapAF_f (s : State) : (s.swapAF).f = s.fAlt := rfl
@[simp] theorem State.swapAF_b (s : State) : (s.swapAF).b = s.b := rfl
@[simp] theorem State.swapAF_c (s : State) : (s.swapAF).c = s.c := rfl
@[simp] theorem State.swapAF_d (s : State) : (s.swapAF).d = s.d := rfl
@[simp] theorem State.swapAF_e (s : State) : (s.swapAF).e = s.e := rfl
@[simp] theorem State.swapAF_h (s : State) : (s.swapAF).h = s.h := rfl
@[simp] theorem State.swapAF_l (s : State) : (s.swapAF).l = s.l := rfl
@[simp] theorem State.swapAF_aAlt (s : State) : (s.swapAF).aAlt = s.a := rfl
@[simp] theorem State.swapAF_fAlt (s : State) : (s.swapAF).fAlt = s.f := rfl
@[simp] theorem State.swapAF_bAlt (s : State) : (s.swapAF).bAlt = s.bAlt := rfl
@[simp] theorem State.swapAF_cAlt (s : State) : (s.swapAF).cAlt = s.cAlt := rfl
@[simp] theorem State.swapAF_dAlt (s : State) : (s.swapAF).dAlt = s.dAlt := rfl
@[simp] theorem State.swapAF_eAlt (s : State) : (s.swapAF).eAlt = s.eAlt := rfl
@[simp] theorem State.swapAF_hAlt (s : State) : (s.swapAF).hAlt = s.hAlt := rfl
@[simp] theorem State.swapAF_lAlt (s : State) : (s.swapAF).lAlt = s.lAlt := rfl
@[simp] theorem State.swapAF_ix (s : State) : (s.swapAF).ix = s.ix := rfl
@[simp] theorem State.swapAF_iy (s : State) : (s.swapAF).iy = s.iy := rfl
@[simp] theorem State.swapAF_sp (s : State) : (s.swapAF).sp = s.sp := rfl
@[simp] theorem State.swapAF_pc (s : State) : (s.swapAF).pc = s.pc := rfl
@[simp] theorem State.swapAF_iReg (s : State) : (s.swapAF).iReg = s.iReg := rfl
@[simp] theorem State.swapAF_rReg (s : State) : (s.swapAF).rReg = s.rReg := rfl
@[simp] theorem State.swapAF_iff1 (s : State) : (s.swapAF).iff1 = s.iff1 := rfl
@[simp] theorem State.swapAF_iff2 (s : State) : (s.swapAF).iff2 = s.iff2 := rfl
@[simp] theorem State.swapAF_im (s : State) : (s.swapAF).im = s.im := rfl
@[simp] theorem State.swapAF_halted (s : State) : (s.swapAF).halted = s.halted := rfl
@[simp] theorem State.swapAF_nmiPending (s : State) : (s.swapAF).nmiPending = s.nmiPending := rfl
@[simp] theorem State.swapAF_mem (s : State) : (s.swapAF).mem = s.mem := rfl
@[simp] theorem State.swapAF_memMap (s : State) : (s.swapAF).memMap = s.memMap := rfl
@[simp] theorem State.swapAF_inputs (s : State) : (s.swapAF).inputs = s.inputs := rfl
@[simp] theorem State.swapAF_ioIn (s : State) : (s.swapAF).ioIn = s.ioIn := rfl
@[simp] theorem State.swapAF_memIn (s : State) : (s.swapAF).memIn = s.memIn := rfl
@[simp] theorem State.swapAF_repeating (s : State) : (s.swapAF).repeating = s.repeating := rfl
@[simp] theorem State.swapAF_trace (s : State) : (s.swapAF).trace = s.trace := rfl
@[simp] theorem State.swapAF_draws (s : State) : (s.swapAF).draws = s.draws := rfl
@[simp] theorem State.swapAF_cell (s : State)  (x : Word) : (s.swapAF).cell x = s.cell x := rfl
@[simp] theorem State.swapAF_holds (s : State)  (x : Word) : (s.swapAF).holds x = s.holds x := rfl
@[simp] theorem State.swapAF_keeps (s : State)  (x : Word) : (s.swapAF).keeps x = s.keeps x := rfl
@[simp] theorem State.swapAF_readByte (s : State)  (x : Word) : (s.swapAF).readByte x = s.readByte x := rfl
@[simp] theorem State.swapAF_bc (s : State) : (s.swapAF).bc = s.bc := rfl
@[simp] theorem State.swapAF_de (s : State) : (s.swapAF).de = s.de := rfl
@[simp] theorem State.swapAF_hl (s : State) : (s.swapAF).hl = s.hl := rfl

@[simp] theorem State.swapBank_a (s : State) : (s.swapBank).a = s.a := rfl
@[simp] theorem State.swapBank_f (s : State) : (s.swapBank).f = s.f := rfl
@[simp] theorem State.swapBank_b (s : State) : (s.swapBank).b = s.bAlt := rfl
@[simp] theorem State.swapBank_c (s : State) : (s.swapBank).c = s.cAlt := rfl
@[simp] theorem State.swapBank_d (s : State) : (s.swapBank).d = s.dAlt := rfl
@[simp] theorem State.swapBank_e (s : State) : (s.swapBank).e = s.eAlt := rfl
@[simp] theorem State.swapBank_h (s : State) : (s.swapBank).h = s.hAlt := rfl
@[simp] theorem State.swapBank_l (s : State) : (s.swapBank).l = s.lAlt := rfl
@[simp] theorem State.swapBank_aAlt (s : State) : (s.swapBank).aAlt = s.aAlt := rfl
@[simp] theorem State.swapBank_fAlt (s : State) : (s.swapBank).fAlt = s.fAlt := rfl
@[simp] theorem State.swapBank_bAlt (s : State) : (s.swapBank).bAlt = s.b := rfl
@[simp] theorem State.swapBank_cAlt (s : State) : (s.swapBank).cAlt = s.c := rfl
@[simp] theorem State.swapBank_dAlt (s : State) : (s.swapBank).dAlt = s.d := rfl
@[simp] theorem State.swapBank_eAlt (s : State) : (s.swapBank).eAlt = s.e := rfl
@[simp] theorem State.swapBank_hAlt (s : State) : (s.swapBank).hAlt = s.h := rfl
@[simp] theorem State.swapBank_lAlt (s : State) : (s.swapBank).lAlt = s.l := rfl
@[simp] theorem State.swapBank_ix (s : State) : (s.swapBank).ix = s.ix := rfl
@[simp] theorem State.swapBank_iy (s : State) : (s.swapBank).iy = s.iy := rfl
@[simp] theorem State.swapBank_sp (s : State) : (s.swapBank).sp = s.sp := rfl
@[simp] theorem State.swapBank_pc (s : State) : (s.swapBank).pc = s.pc := rfl
@[simp] theorem State.swapBank_iReg (s : State) : (s.swapBank).iReg = s.iReg := rfl
@[simp] theorem State.swapBank_rReg (s : State) : (s.swapBank).rReg = s.rReg := rfl
@[simp] theorem State.swapBank_iff1 (s : State) : (s.swapBank).iff1 = s.iff1 := rfl
@[simp] theorem State.swapBank_iff2 (s : State) : (s.swapBank).iff2 = s.iff2 := rfl
@[simp] theorem State.swapBank_im (s : State) : (s.swapBank).im = s.im := rfl
@[simp] theorem State.swapBank_halted (s : State) : (s.swapBank).halted = s.halted := rfl
@[simp] theorem State.swapBank_nmiPending (s : State) : (s.swapBank).nmiPending = s.nmiPending := rfl
@[simp] theorem State.swapBank_mem (s : State) : (s.swapBank).mem = s.mem := rfl
@[simp] theorem State.swapBank_memMap (s : State) : (s.swapBank).memMap = s.memMap := rfl
@[simp] theorem State.swapBank_inputs (s : State) : (s.swapBank).inputs = s.inputs := rfl
@[simp] theorem State.swapBank_ioIn (s : State) : (s.swapBank).ioIn = s.ioIn := rfl
@[simp] theorem State.swapBank_memIn (s : State) : (s.swapBank).memIn = s.memIn := rfl
@[simp] theorem State.swapBank_repeating (s : State) : (s.swapBank).repeating = s.repeating := rfl
@[simp] theorem State.swapBank_trace (s : State) : (s.swapBank).trace = s.trace := rfl
@[simp] theorem State.swapBank_draws (s : State) : (s.swapBank).draws = s.draws := rfl
@[simp] theorem State.swapBank_cell (s : State)  (x : Word) : (s.swapBank).cell x = s.cell x := rfl
@[simp] theorem State.swapBank_holds (s : State)  (x : Word) : (s.swapBank).holds x = s.holds x := rfl
@[simp] theorem State.swapBank_keeps (s : State)  (x : Word) : (s.swapBank).keeps x = s.keeps x := rfl
@[simp] theorem State.swapBank_readByte (s : State)  (x : Word) : (s.swapBank).readByte x = s.readByte x := rfl
@[simp] theorem State.swapBank_flags (s : State) : (s.swapBank).flags = s.flags := rfl

@[simp] theorem State.drew_a (s : State) : (s.drew).a = s.a := rfl
@[simp] theorem State.drew_f (s : State) : (s.drew).f = s.f := rfl
@[simp] theorem State.drew_b (s : State) : (s.drew).b = s.b := rfl
@[simp] theorem State.drew_c (s : State) : (s.drew).c = s.c := rfl
@[simp] theorem State.drew_d (s : State) : (s.drew).d = s.d := rfl
@[simp] theorem State.drew_e (s : State) : (s.drew).e = s.e := rfl
@[simp] theorem State.drew_h (s : State) : (s.drew).h = s.h := rfl
@[simp] theorem State.drew_l (s : State) : (s.drew).l = s.l := rfl
@[simp] theorem State.drew_aAlt (s : State) : (s.drew).aAlt = s.aAlt := rfl
@[simp] theorem State.drew_fAlt (s : State) : (s.drew).fAlt = s.fAlt := rfl
@[simp] theorem State.drew_bAlt (s : State) : (s.drew).bAlt = s.bAlt := rfl
@[simp] theorem State.drew_cAlt (s : State) : (s.drew).cAlt = s.cAlt := rfl
@[simp] theorem State.drew_dAlt (s : State) : (s.drew).dAlt = s.dAlt := rfl
@[simp] theorem State.drew_eAlt (s : State) : (s.drew).eAlt = s.eAlt := rfl
@[simp] theorem State.drew_hAlt (s : State) : (s.drew).hAlt = s.hAlt := rfl
@[simp] theorem State.drew_lAlt (s : State) : (s.drew).lAlt = s.lAlt := rfl
@[simp] theorem State.drew_ix (s : State) : (s.drew).ix = s.ix := rfl
@[simp] theorem State.drew_iy (s : State) : (s.drew).iy = s.iy := rfl
@[simp] theorem State.drew_sp (s : State) : (s.drew).sp = s.sp := rfl
@[simp] theorem State.drew_pc (s : State) : (s.drew).pc = s.pc := rfl
@[simp] theorem State.drew_iReg (s : State) : (s.drew).iReg = s.iReg := rfl
@[simp] theorem State.drew_rReg (s : State) : (s.drew).rReg = s.rReg := rfl
@[simp] theorem State.drew_iff1 (s : State) : (s.drew).iff1 = s.iff1 := rfl
@[simp] theorem State.drew_iff2 (s : State) : (s.drew).iff2 = s.iff2 := rfl
@[simp] theorem State.drew_im (s : State) : (s.drew).im = s.im := rfl
@[simp] theorem State.drew_halted (s : State) : (s.drew).halted = s.halted := rfl
@[simp] theorem State.drew_nmiPending (s : State) : (s.drew).nmiPending = s.nmiPending := rfl
@[simp] theorem State.drew_mem (s : State) : (s.drew).mem = s.mem := rfl
@[simp] theorem State.drew_memMap (s : State) : (s.drew).memMap = s.memMap := rfl
@[simp] theorem State.drew_inputs (s : State) : (s.drew).inputs = s.inputs := rfl
@[simp] theorem State.drew_ioIn (s : State) : (s.drew).ioIn = s.ioIn := rfl
@[simp] theorem State.drew_memIn (s : State) : (s.drew).memIn = s.memIn := rfl
@[simp] theorem State.drew_repeating (s : State) : (s.drew).repeating = s.repeating := rfl
@[simp] theorem State.drew_trace (s : State) : (s.drew).trace = s.trace := rfl
@[simp] theorem State.drew_draws (s : State) : (s.drew).draws = s.draws + 1 := rfl
@[simp] theorem State.drew_cell (s : State)  (x : Word) : (s.drew).cell x = s.cell x := rfl
@[simp] theorem State.drew_holds (s : State)  (x : Word) : (s.drew).holds x = s.holds x := rfl
@[simp] theorem State.drew_keeps (s : State)  (x : Word) : (s.drew).keeps x = s.keeps x := rfl
@[simp] theorem State.drew_flags (s : State) : (s.drew).flags = s.flags := rfl
@[simp] theorem State.drew_bc (s : State) : (s.drew).bc = s.bc := rfl
@[simp] theorem State.drew_de (s : State) : (s.drew).de = s.de := rfl
@[simp] theorem State.drew_hl (s : State) : (s.drew).hl = s.hl := rfl

@[simp] theorem State.writeFlags_a (s : State) (fl : Flags) : (s.writeFlags fl).a = s.a := rfl
@[simp] theorem State.writeFlags_b (s : State) (fl : Flags) : (s.writeFlags fl).b = s.b := rfl
@[simp] theorem State.writeFlags_c (s : State) (fl : Flags) : (s.writeFlags fl).c = s.c := rfl
@[simp] theorem State.writeFlags_d (s : State) (fl : Flags) : (s.writeFlags fl).d = s.d := rfl
@[simp] theorem State.writeFlags_e (s : State) (fl : Flags) : (s.writeFlags fl).e = s.e := rfl
@[simp] theorem State.writeFlags_h (s : State) (fl : Flags) : (s.writeFlags fl).h = s.h := rfl
@[simp] theorem State.writeFlags_l (s : State) (fl : Flags) : (s.writeFlags fl).l = s.l := rfl
@[simp] theorem State.writeFlags_aAlt (s : State) (fl : Flags) : (s.writeFlags fl).aAlt = s.aAlt := rfl
@[simp] theorem State.writeFlags_fAlt (s : State) (fl : Flags) : (s.writeFlags fl).fAlt = s.fAlt := rfl
@[simp] theorem State.writeFlags_bAlt (s : State) (fl : Flags) : (s.writeFlags fl).bAlt = s.bAlt := rfl
@[simp] theorem State.writeFlags_cAlt (s : State) (fl : Flags) : (s.writeFlags fl).cAlt = s.cAlt := rfl
@[simp] theorem State.writeFlags_dAlt (s : State) (fl : Flags) : (s.writeFlags fl).dAlt = s.dAlt := rfl
@[simp] theorem State.writeFlags_eAlt (s : State) (fl : Flags) : (s.writeFlags fl).eAlt = s.eAlt := rfl
@[simp] theorem State.writeFlags_hAlt (s : State) (fl : Flags) : (s.writeFlags fl).hAlt = s.hAlt := rfl
@[simp] theorem State.writeFlags_lAlt (s : State) (fl : Flags) : (s.writeFlags fl).lAlt = s.lAlt := rfl
@[simp] theorem State.writeFlags_ix (s : State) (fl : Flags) : (s.writeFlags fl).ix = s.ix := rfl
@[simp] theorem State.writeFlags_iy (s : State) (fl : Flags) : (s.writeFlags fl).iy = s.iy := rfl
@[simp] theorem State.writeFlags_sp (s : State) (fl : Flags) : (s.writeFlags fl).sp = s.sp := rfl
@[simp] theorem State.writeFlags_pc (s : State) (fl : Flags) : (s.writeFlags fl).pc = s.pc := rfl
@[simp] theorem State.writeFlags_iReg (s : State) (fl : Flags) : (s.writeFlags fl).iReg = s.iReg := rfl
@[simp] theorem State.writeFlags_rReg (s : State) (fl : Flags) : (s.writeFlags fl).rReg = s.rReg := rfl
@[simp] theorem State.writeFlags_iff1 (s : State) (fl : Flags) : (s.writeFlags fl).iff1 = s.iff1 := rfl
@[simp] theorem State.writeFlags_iff2 (s : State) (fl : Flags) : (s.writeFlags fl).iff2 = s.iff2 := rfl
@[simp] theorem State.writeFlags_im (s : State) (fl : Flags) : (s.writeFlags fl).im = s.im := rfl
@[simp] theorem State.writeFlags_halted (s : State) (fl : Flags) : (s.writeFlags fl).halted = s.halted := rfl
@[simp] theorem State.writeFlags_nmiPending (s : State) (fl : Flags) : (s.writeFlags fl).nmiPending = s.nmiPending := rfl
@[simp] theorem State.writeFlags_mem (s : State) (fl : Flags) : (s.writeFlags fl).mem = s.mem := rfl
@[simp] theorem State.writeFlags_memMap (s : State) (fl : Flags) : (s.writeFlags fl).memMap = s.memMap := rfl
@[simp] theorem State.writeFlags_inputs (s : State) (fl : Flags) : (s.writeFlags fl).inputs = s.inputs := rfl
@[simp] theorem State.writeFlags_ioIn (s : State) (fl : Flags) : (s.writeFlags fl).ioIn = s.ioIn := rfl
@[simp] theorem State.writeFlags_memIn (s : State) (fl : Flags) : (s.writeFlags fl).memIn = s.memIn := rfl
@[simp] theorem State.writeFlags_repeating (s : State) (fl : Flags) : (s.writeFlags fl).repeating = s.repeating := rfl
@[simp] theorem State.writeFlags_trace (s : State) (fl : Flags) : (s.writeFlags fl).trace = s.trace := rfl
@[simp] theorem State.writeFlags_draws (s : State) (fl : Flags) : (s.writeFlags fl).draws = s.draws + 1 := rfl
@[simp] theorem State.writeFlags_cell (s : State) (fl : Flags) (x : Word) : (s.writeFlags fl).cell x = s.cell x := rfl
@[simp] theorem State.writeFlags_holds (s : State) (fl : Flags) (x : Word) : (s.writeFlags fl).holds x = s.holds x := rfl
@[simp] theorem State.writeFlags_keeps (s : State) (fl : Flags) (x : Word) : (s.writeFlags fl).keeps x = s.keeps x := rfl
@[simp] theorem State.writeFlags_bc (s : State) (fl : Flags) : (s.writeFlags fl).bc = s.bc := rfl
@[simp] theorem State.writeFlags_de (s : State) (fl : Flags) : (s.writeFlags fl).de = s.de := rfl
@[simp] theorem State.writeFlags_hl (s : State) (fl : Flags) : (s.writeFlags fl).hl = s.hl := rfl

@[simp] theorem State.emit_a (s : State) (ev : BusEvent) : (s.emit ev).a = s.a := rfl
@[simp] theorem State.emit_f (s : State) (ev : BusEvent) : (s.emit ev).f = s.f := rfl
@[simp] theorem State.emit_b (s : State) (ev : BusEvent) : (s.emit ev).b = s.b := rfl
@[simp] theorem State.emit_c (s : State) (ev : BusEvent) : (s.emit ev).c = s.c := rfl
@[simp] theorem State.emit_d (s : State) (ev : BusEvent) : (s.emit ev).d = s.d := rfl
@[simp] theorem State.emit_e (s : State) (ev : BusEvent) : (s.emit ev).e = s.e := rfl
@[simp] theorem State.emit_h (s : State) (ev : BusEvent) : (s.emit ev).h = s.h := rfl
@[simp] theorem State.emit_l (s : State) (ev : BusEvent) : (s.emit ev).l = s.l := rfl
@[simp] theorem State.emit_aAlt (s : State) (ev : BusEvent) : (s.emit ev).aAlt = s.aAlt := rfl
@[simp] theorem State.emit_fAlt (s : State) (ev : BusEvent) : (s.emit ev).fAlt = s.fAlt := rfl
@[simp] theorem State.emit_bAlt (s : State) (ev : BusEvent) : (s.emit ev).bAlt = s.bAlt := rfl
@[simp] theorem State.emit_cAlt (s : State) (ev : BusEvent) : (s.emit ev).cAlt = s.cAlt := rfl
@[simp] theorem State.emit_dAlt (s : State) (ev : BusEvent) : (s.emit ev).dAlt = s.dAlt := rfl
@[simp] theorem State.emit_eAlt (s : State) (ev : BusEvent) : (s.emit ev).eAlt = s.eAlt := rfl
@[simp] theorem State.emit_hAlt (s : State) (ev : BusEvent) : (s.emit ev).hAlt = s.hAlt := rfl
@[simp] theorem State.emit_lAlt (s : State) (ev : BusEvent) : (s.emit ev).lAlt = s.lAlt := rfl
@[simp] theorem State.emit_ix (s : State) (ev : BusEvent) : (s.emit ev).ix = s.ix := rfl
@[simp] theorem State.emit_iy (s : State) (ev : BusEvent) : (s.emit ev).iy = s.iy := rfl
@[simp] theorem State.emit_sp (s : State) (ev : BusEvent) : (s.emit ev).sp = s.sp := rfl
@[simp] theorem State.emit_pc (s : State) (ev : BusEvent) : (s.emit ev).pc = s.pc := rfl
@[simp] theorem State.emit_iReg (s : State) (ev : BusEvent) : (s.emit ev).iReg = s.iReg := rfl
@[simp] theorem State.emit_rReg (s : State) (ev : BusEvent) : (s.emit ev).rReg = s.rReg := rfl
@[simp] theorem State.emit_iff1 (s : State) (ev : BusEvent) : (s.emit ev).iff1 = s.iff1 := rfl
@[simp] theorem State.emit_iff2 (s : State) (ev : BusEvent) : (s.emit ev).iff2 = s.iff2 := rfl
@[simp] theorem State.emit_im (s : State) (ev : BusEvent) : (s.emit ev).im = s.im := rfl
@[simp] theorem State.emit_halted (s : State) (ev : BusEvent) : (s.emit ev).halted = s.halted := rfl
@[simp] theorem State.emit_nmiPending (s : State) (ev : BusEvent) : (s.emit ev).nmiPending = s.nmiPending := rfl
@[simp] theorem State.emit_mem (s : State) (ev : BusEvent) : (s.emit ev).mem = s.mem := rfl
@[simp] theorem State.emit_memMap (s : State) (ev : BusEvent) : (s.emit ev).memMap = s.memMap := rfl
@[simp] theorem State.emit_inputs (s : State) (ev : BusEvent) : (s.emit ev).inputs = s.inputs := rfl
@[simp] theorem State.emit_ioIn (s : State) (ev : BusEvent) : (s.emit ev).ioIn = s.ioIn := rfl
@[simp] theorem State.emit_memIn (s : State) (ev : BusEvent) : (s.emit ev).memIn = s.memIn := rfl
@[simp] theorem State.emit_repeating (s : State) (ev : BusEvent) : (s.emit ev).repeating = s.repeating := rfl
@[simp] theorem State.emit_trace (s : State) (ev : BusEvent) : (s.emit ev).trace = ev :: s.trace := rfl
@[simp] theorem State.emit_draws (s : State) (ev : BusEvent) : (s.emit ev).draws = s.draws := rfl
@[simp] theorem State.emit_cell (s : State) (ev : BusEvent) (x : Word) : (s.emit ev).cell x = s.cell x := rfl
@[simp] theorem State.emit_holds (s : State) (ev : BusEvent) (x : Word) : (s.emit ev).holds x = s.holds x := rfl
@[simp] theorem State.emit_keeps (s : State) (ev : BusEvent) (x : Word) : (s.emit ev).keeps x = s.keeps x := rfl
@[simp] theorem State.emit_readByte (s : State) (ev : BusEvent) (x : Word) : (s.emit ev).readByte x = s.readByte x := rfl
@[simp] theorem State.emit_flags (s : State) (ev : BusEvent) : (s.emit ev).flags = s.flags := rfl
@[simp] theorem State.emit_bc (s : State) (ev : BusEvent) : (s.emit ev).bc = s.bc := rfl
@[simp] theorem State.emit_de (s : State) (ev : BusEvent) : (s.emit ev).de = s.de := rfl
@[simp] theorem State.emit_hl (s : State) (ev : BusEvent) : (s.emit ev).hl = s.hl := rfl

@[simp] theorem State.ioWrite_a (s : State) (port : Word) (v : Byte) : (s.ioWrite port v).a = s.a := by simp [State.ioWrite]
@[simp] theorem State.ioWrite_f (s : State) (port : Word) (v : Byte) : (s.ioWrite port v).f = s.f := by simp [State.ioWrite]
@[simp] theorem State.ioWrite_b (s : State) (port : Word) (v : Byte) : (s.ioWrite port v).b = s.b := by simp [State.ioWrite]
@[simp] theorem State.ioWrite_c (s : State) (port : Word) (v : Byte) : (s.ioWrite port v).c = s.c := by simp [State.ioWrite]
@[simp] theorem State.ioWrite_d (s : State) (port : Word) (v : Byte) : (s.ioWrite port v).d = s.d := by simp [State.ioWrite]
@[simp] theorem State.ioWrite_e (s : State) (port : Word) (v : Byte) : (s.ioWrite port v).e = s.e := by simp [State.ioWrite]
@[simp] theorem State.ioWrite_h (s : State) (port : Word) (v : Byte) : (s.ioWrite port v).h = s.h := by simp [State.ioWrite]
@[simp] theorem State.ioWrite_l (s : State) (port : Word) (v : Byte) : (s.ioWrite port v).l = s.l := by simp [State.ioWrite]
@[simp] theorem State.ioWrite_aAlt (s : State) (port : Word) (v : Byte) : (s.ioWrite port v).aAlt = s.aAlt := by simp [State.ioWrite]
@[simp] theorem State.ioWrite_fAlt (s : State) (port : Word) (v : Byte) : (s.ioWrite port v).fAlt = s.fAlt := by simp [State.ioWrite]
@[simp] theorem State.ioWrite_bAlt (s : State) (port : Word) (v : Byte) : (s.ioWrite port v).bAlt = s.bAlt := by simp [State.ioWrite]
@[simp] theorem State.ioWrite_cAlt (s : State) (port : Word) (v : Byte) : (s.ioWrite port v).cAlt = s.cAlt := by simp [State.ioWrite]
@[simp] theorem State.ioWrite_dAlt (s : State) (port : Word) (v : Byte) : (s.ioWrite port v).dAlt = s.dAlt := by simp [State.ioWrite]
@[simp] theorem State.ioWrite_eAlt (s : State) (port : Word) (v : Byte) : (s.ioWrite port v).eAlt = s.eAlt := by simp [State.ioWrite]
@[simp] theorem State.ioWrite_hAlt (s : State) (port : Word) (v : Byte) : (s.ioWrite port v).hAlt = s.hAlt := by simp [State.ioWrite]
@[simp] theorem State.ioWrite_lAlt (s : State) (port : Word) (v : Byte) : (s.ioWrite port v).lAlt = s.lAlt := by simp [State.ioWrite]
@[simp] theorem State.ioWrite_ix (s : State) (port : Word) (v : Byte) : (s.ioWrite port v).ix = s.ix := by simp [State.ioWrite]
@[simp] theorem State.ioWrite_iy (s : State) (port : Word) (v : Byte) : (s.ioWrite port v).iy = s.iy := by simp [State.ioWrite]
@[simp] theorem State.ioWrite_sp (s : State) (port : Word) (v : Byte) : (s.ioWrite port v).sp = s.sp := by simp [State.ioWrite]
@[simp] theorem State.ioWrite_pc (s : State) (port : Word) (v : Byte) : (s.ioWrite port v).pc = s.pc := by simp [State.ioWrite]
@[simp] theorem State.ioWrite_iReg (s : State) (port : Word) (v : Byte) : (s.ioWrite port v).iReg = s.iReg := by simp [State.ioWrite]
@[simp] theorem State.ioWrite_rReg (s : State) (port : Word) (v : Byte) : (s.ioWrite port v).rReg = s.rReg := by simp [State.ioWrite]
@[simp] theorem State.ioWrite_iff1 (s : State) (port : Word) (v : Byte) : (s.ioWrite port v).iff1 = s.iff1 := by simp [State.ioWrite]
@[simp] theorem State.ioWrite_iff2 (s : State) (port : Word) (v : Byte) : (s.ioWrite port v).iff2 = s.iff2 := by simp [State.ioWrite]
@[simp] theorem State.ioWrite_im (s : State) (port : Word) (v : Byte) : (s.ioWrite port v).im = s.im := by simp [State.ioWrite]
@[simp] theorem State.ioWrite_halted (s : State) (port : Word) (v : Byte) : (s.ioWrite port v).halted = s.halted := by simp [State.ioWrite]
@[simp] theorem State.ioWrite_nmiPending (s : State) (port : Word) (v : Byte) : (s.ioWrite port v).nmiPending = s.nmiPending := by simp [State.ioWrite]
@[simp] theorem State.ioWrite_mem (s : State) (port : Word) (v : Byte) : (s.ioWrite port v).mem = s.mem := by simp [State.ioWrite]
@[simp] theorem State.ioWrite_memMap (s : State) (port : Word) (v : Byte) : (s.ioWrite port v).memMap = s.memMap := by simp [State.ioWrite]
@[simp] theorem State.ioWrite_inputs (s : State) (port : Word) (v : Byte) : (s.ioWrite port v).inputs = s.inputs := by simp [State.ioWrite]
@[simp] theorem State.ioWrite_ioIn (s : State) (port : Word) (v : Byte) : (s.ioWrite port v).ioIn = s.ioIn := by simp [State.ioWrite]
@[simp] theorem State.ioWrite_memIn (s : State) (port : Word) (v : Byte) : (s.ioWrite port v).memIn = s.memIn := by simp [State.ioWrite]
@[simp] theorem State.ioWrite_repeating (s : State) (port : Word) (v : Byte) : (s.ioWrite port v).repeating = s.repeating := by simp [State.ioWrite]
@[simp] theorem State.ioWrite_trace (s : State) (port : Word) (v : Byte) : (s.ioWrite port v).trace = .ioWrite port v :: s.trace := by simp [State.ioWrite]
@[simp] theorem State.ioWrite_draws (s : State) (port : Word) (v : Byte) : (s.ioWrite port v).draws = s.draws := by simp [State.ioWrite]
@[simp] theorem State.ioWrite_cell (s : State) (port : Word) (v : Byte) (x : Word) : (s.ioWrite port v).cell x = s.cell x := by simp [State.ioWrite]
@[simp] theorem State.ioWrite_holds (s : State) (port : Word) (v : Byte) (x : Word) : (s.ioWrite port v).holds x = s.holds x := by simp [State.ioWrite]
@[simp] theorem State.ioWrite_keeps (s : State) (port : Word) (v : Byte) (x : Word) : (s.ioWrite port v).keeps x = s.keeps x := by simp [State.ioWrite]
@[simp] theorem State.ioWrite_readByte (s : State) (port : Word) (v : Byte) (x : Word) : (s.ioWrite port v).readByte x = s.readByte x := by simp [State.ioWrite]
@[simp] theorem State.ioWrite_flags (s : State) (port : Word) (v : Byte) : (s.ioWrite port v).flags = s.flags := by simp [State.ioWrite]
@[simp] theorem State.ioWrite_bc (s : State) (port : Word) (v : Byte) : (s.ioWrite port v).bc = s.bc := by simp [State.ioWrite]
@[simp] theorem State.ioWrite_de (s : State) (port : Word) (v : Byte) : (s.ioWrite port v).de = s.de := by simp [State.ioWrite]
@[simp] theorem State.ioWrite_hl (s : State) (port : Word) (v : Byte) : (s.ioWrite port v).hl = s.hl := by simp [State.ioWrite]

@[simp] theorem State.readDone_a (s : State) (a : Word) : (s.readDone a).a = s.a := rfl
@[simp] theorem State.readDone_f (s : State) (a : Word) : (s.readDone a).f = s.f := rfl
@[simp] theorem State.readDone_b (s : State) (a : Word) : (s.readDone a).b = s.b := rfl
@[simp] theorem State.readDone_c (s : State) (a : Word) : (s.readDone a).c = s.c := rfl
@[simp] theorem State.readDone_d (s : State) (a : Word) : (s.readDone a).d = s.d := rfl
@[simp] theorem State.readDone_e (s : State) (a : Word) : (s.readDone a).e = s.e := rfl
@[simp] theorem State.readDone_h (s : State) (a : Word) : (s.readDone a).h = s.h := rfl
@[simp] theorem State.readDone_l (s : State) (a : Word) : (s.readDone a).l = s.l := rfl
@[simp] theorem State.readDone_aAlt (s : State) (a : Word) : (s.readDone a).aAlt = s.aAlt := rfl
@[simp] theorem State.readDone_fAlt (s : State) (a : Word) : (s.readDone a).fAlt = s.fAlt := rfl
@[simp] theorem State.readDone_bAlt (s : State) (a : Word) : (s.readDone a).bAlt = s.bAlt := rfl
@[simp] theorem State.readDone_cAlt (s : State) (a : Word) : (s.readDone a).cAlt = s.cAlt := rfl
@[simp] theorem State.readDone_dAlt (s : State) (a : Word) : (s.readDone a).dAlt = s.dAlt := rfl
@[simp] theorem State.readDone_eAlt (s : State) (a : Word) : (s.readDone a).eAlt = s.eAlt := rfl
@[simp] theorem State.readDone_hAlt (s : State) (a : Word) : (s.readDone a).hAlt = s.hAlt := rfl
@[simp] theorem State.readDone_lAlt (s : State) (a : Word) : (s.readDone a).lAlt = s.lAlt := rfl
@[simp] theorem State.readDone_ix (s : State) (a : Word) : (s.readDone a).ix = s.ix := rfl
@[simp] theorem State.readDone_iy (s : State) (a : Word) : (s.readDone a).iy = s.iy := rfl
@[simp] theorem State.readDone_sp (s : State) (a : Word) : (s.readDone a).sp = s.sp := rfl
@[simp] theorem State.readDone_pc (s : State) (a : Word) : (s.readDone a).pc = s.pc := rfl
@[simp] theorem State.readDone_iReg (s : State) (a : Word) : (s.readDone a).iReg = s.iReg := rfl
@[simp] theorem State.readDone_rReg (s : State) (a : Word) : (s.readDone a).rReg = s.rReg := rfl
@[simp] theorem State.readDone_iff1 (s : State) (a : Word) : (s.readDone a).iff1 = s.iff1 := rfl
@[simp] theorem State.readDone_iff2 (s : State) (a : Word) : (s.readDone a).iff2 = s.iff2 := rfl
@[simp] theorem State.readDone_im (s : State) (a : Word) : (s.readDone a).im = s.im := rfl
@[simp] theorem State.readDone_halted (s : State) (a : Word) : (s.readDone a).halted = s.halted := rfl
@[simp] theorem State.readDone_nmiPending (s : State) (a : Word) : (s.readDone a).nmiPending = s.nmiPending := rfl
@[simp] theorem State.readDone_mem (s : State) (a : Word) : (s.readDone a).mem = s.mem := rfl
@[simp] theorem State.readDone_memMap (s : State) (a : Word) : (s.readDone a).memMap = s.memMap := rfl
@[simp] theorem State.readDone_inputs (s : State) (a : Word) : (s.readDone a).inputs = s.inputs := rfl
@[simp] theorem State.readDone_ioIn (s : State) (a : Word) : (s.readDone a).ioIn = s.ioIn := rfl
@[simp] theorem State.readDone_memIn (s : State) (a : Word) : (s.readDone a).memIn = if s.holds a then s.memIn else s.memIn.tail := rfl
@[simp] theorem State.readDone_repeating (s : State) (a : Word) : (s.readDone a).repeating = s.repeating := rfl
@[simp] theorem State.readDone_trace (s : State) (a : Word) : (s.readDone a).trace = .memRead a (s.readByte a) :: s.trace := rfl
@[simp] theorem State.readDone_draws (s : State) (a : Word) : (s.readDone a).draws = if s.holds a || !s.memIn.isEmpty then s.draws else s.draws + 1 := rfl
@[simp] theorem State.readDone_cell (s : State) (a : Word) (x : Word) : (s.readDone a).cell x = s.cell x := rfl
@[simp] theorem State.readDone_holds (s : State) (a : Word) (x : Word) : (s.readDone a).holds x = s.holds x := rfl
@[simp] theorem State.readDone_keeps (s : State) (a : Word) (x : Word) : (s.readDone a).keeps x = s.keeps x := rfl
@[simp] theorem State.readDone_flags (s : State) (a : Word) : (s.readDone a).flags = s.flags := rfl
@[simp] theorem State.readDone_bc (s : State) (a : Word) : (s.readDone a).bc = s.bc := rfl
@[simp] theorem State.readDone_de (s : State) (a : Word) : (s.readDone a).de = s.de := rfl
@[simp] theorem State.readDone_hl (s : State) (a : Word) : (s.readDone a).hl = s.hl := rfl

@[simp] theorem State.readWordDone_a (s : State) (a : Word) : (s.readWordDone a).a = s.a := by simp [State.readWordDone]
@[simp] theorem State.readWordDone_f (s : State) (a : Word) : (s.readWordDone a).f = s.f := by simp [State.readWordDone]
@[simp] theorem State.readWordDone_b (s : State) (a : Word) : (s.readWordDone a).b = s.b := by simp [State.readWordDone]
@[simp] theorem State.readWordDone_c (s : State) (a : Word) : (s.readWordDone a).c = s.c := by simp [State.readWordDone]
@[simp] theorem State.readWordDone_d (s : State) (a : Word) : (s.readWordDone a).d = s.d := by simp [State.readWordDone]
@[simp] theorem State.readWordDone_e (s : State) (a : Word) : (s.readWordDone a).e = s.e := by simp [State.readWordDone]
@[simp] theorem State.readWordDone_h (s : State) (a : Word) : (s.readWordDone a).h = s.h := by simp [State.readWordDone]
@[simp] theorem State.readWordDone_l (s : State) (a : Word) : (s.readWordDone a).l = s.l := by simp [State.readWordDone]
@[simp] theorem State.readWordDone_aAlt (s : State) (a : Word) : (s.readWordDone a).aAlt = s.aAlt := by simp [State.readWordDone]
@[simp] theorem State.readWordDone_fAlt (s : State) (a : Word) : (s.readWordDone a).fAlt = s.fAlt := by simp [State.readWordDone]
@[simp] theorem State.readWordDone_bAlt (s : State) (a : Word) : (s.readWordDone a).bAlt = s.bAlt := by simp [State.readWordDone]
@[simp] theorem State.readWordDone_cAlt (s : State) (a : Word) : (s.readWordDone a).cAlt = s.cAlt := by simp [State.readWordDone]
@[simp] theorem State.readWordDone_dAlt (s : State) (a : Word) : (s.readWordDone a).dAlt = s.dAlt := by simp [State.readWordDone]
@[simp] theorem State.readWordDone_eAlt (s : State) (a : Word) : (s.readWordDone a).eAlt = s.eAlt := by simp [State.readWordDone]
@[simp] theorem State.readWordDone_hAlt (s : State) (a : Word) : (s.readWordDone a).hAlt = s.hAlt := by simp [State.readWordDone]
@[simp] theorem State.readWordDone_lAlt (s : State) (a : Word) : (s.readWordDone a).lAlt = s.lAlt := by simp [State.readWordDone]
@[simp] theorem State.readWordDone_ix (s : State) (a : Word) : (s.readWordDone a).ix = s.ix := by simp [State.readWordDone]
@[simp] theorem State.readWordDone_iy (s : State) (a : Word) : (s.readWordDone a).iy = s.iy := by simp [State.readWordDone]
@[simp] theorem State.readWordDone_sp (s : State) (a : Word) : (s.readWordDone a).sp = s.sp := by simp [State.readWordDone]
@[simp] theorem State.readWordDone_pc (s : State) (a : Word) : (s.readWordDone a).pc = s.pc := by simp [State.readWordDone]
@[simp] theorem State.readWordDone_iReg (s : State) (a : Word) : (s.readWordDone a).iReg = s.iReg := by simp [State.readWordDone]
@[simp] theorem State.readWordDone_rReg (s : State) (a : Word) : (s.readWordDone a).rReg = s.rReg := by simp [State.readWordDone]
@[simp] theorem State.readWordDone_iff1 (s : State) (a : Word) : (s.readWordDone a).iff1 = s.iff1 := by simp [State.readWordDone]
@[simp] theorem State.readWordDone_iff2 (s : State) (a : Word) : (s.readWordDone a).iff2 = s.iff2 := by simp [State.readWordDone]
@[simp] theorem State.readWordDone_im (s : State) (a : Word) : (s.readWordDone a).im = s.im := by simp [State.readWordDone]
@[simp] theorem State.readWordDone_halted (s : State) (a : Word) : (s.readWordDone a).halted = s.halted := by simp [State.readWordDone]
@[simp] theorem State.readWordDone_nmiPending (s : State) (a : Word) : (s.readWordDone a).nmiPending = s.nmiPending := by simp [State.readWordDone]
@[simp] theorem State.readWordDone_mem (s : State) (a : Word) : (s.readWordDone a).mem = s.mem := by simp [State.readWordDone]
@[simp] theorem State.readWordDone_memMap (s : State) (a : Word) : (s.readWordDone a).memMap = s.memMap := by simp [State.readWordDone]
@[simp] theorem State.readWordDone_inputs (s : State) (a : Word) : (s.readWordDone a).inputs = s.inputs := by simp [State.readWordDone]
@[simp] theorem State.readWordDone_ioIn (s : State) (a : Word) : (s.readWordDone a).ioIn = s.ioIn := by simp [State.readWordDone]
@[simp] theorem State.readWordDone_memIn (s : State) (a : Word) : (s.readWordDone a).memIn = ((s.readDone a).readDone (a + 1)).memIn := by simp [State.readWordDone]
@[simp] theorem State.readWordDone_repeating (s : State) (a : Word) : (s.readWordDone a).repeating = s.repeating := by simp [State.readWordDone]
@[simp] theorem State.readWordDone_trace (s : State) (a : Word) : (s.readWordDone a).trace = .memRead (a + 1) ((s.readDone a).readByte (a + 1)) :: .memRead a (s.readByte a) :: s.trace := by simp [State.readWordDone]
@[simp] theorem State.readWordDone_draws (s : State) (a : Word) : (s.readWordDone a).draws = ((s.readDone a).readDone (a + 1)).draws := by simp [State.readWordDone]
@[simp] theorem State.readWordDone_cell (s : State) (a : Word) (x : Word) : (s.readWordDone a).cell x = s.cell x := by simp [State.readWordDone]
@[simp] theorem State.readWordDone_holds (s : State) (a : Word) (x : Word) : (s.readWordDone a).holds x = s.holds x := by simp [State.readWordDone]
@[simp] theorem State.readWordDone_keeps (s : State) (a : Word) (x : Word) : (s.readWordDone a).keeps x = s.keeps x := by simp [State.readWordDone]
@[simp] theorem State.readWordDone_flags (s : State) (a : Word) : (s.readWordDone a).flags = s.flags := by simp [State.readWordDone]
@[simp] theorem State.readWordDone_bc (s : State) (a : Word) : (s.readWordDone a).bc = s.bc := by simp [State.readWordDone]
@[simp] theorem State.readWordDone_de (s : State) (a : Word) : (s.readWordDone a).de = s.de := by simp [State.readWordDone]
@[simp] theorem State.readWordDone_hl (s : State) (a : Word) : (s.readWordDone a).hl = s.hl := by simp [State.readWordDone]

@[simp] theorem State.writeByte_a (s : State) (a : Word) (v : Byte) : (s.writeByte a v).a = s.a := rfl
@[simp] theorem State.writeByte_f (s : State) (a : Word) (v : Byte) : (s.writeByte a v).f = s.f := rfl
@[simp] theorem State.writeByte_b (s : State) (a : Word) (v : Byte) : (s.writeByte a v).b = s.b := rfl
@[simp] theorem State.writeByte_c (s : State) (a : Word) (v : Byte) : (s.writeByte a v).c = s.c := rfl
@[simp] theorem State.writeByte_d (s : State) (a : Word) (v : Byte) : (s.writeByte a v).d = s.d := rfl
@[simp] theorem State.writeByte_e (s : State) (a : Word) (v : Byte) : (s.writeByte a v).e = s.e := rfl
@[simp] theorem State.writeByte_h (s : State) (a : Word) (v : Byte) : (s.writeByte a v).h = s.h := rfl
@[simp] theorem State.writeByte_l (s : State) (a : Word) (v : Byte) : (s.writeByte a v).l = s.l := rfl
@[simp] theorem State.writeByte_aAlt (s : State) (a : Word) (v : Byte) : (s.writeByte a v).aAlt = s.aAlt := rfl
@[simp] theorem State.writeByte_fAlt (s : State) (a : Word) (v : Byte) : (s.writeByte a v).fAlt = s.fAlt := rfl
@[simp] theorem State.writeByte_bAlt (s : State) (a : Word) (v : Byte) : (s.writeByte a v).bAlt = s.bAlt := rfl
@[simp] theorem State.writeByte_cAlt (s : State) (a : Word) (v : Byte) : (s.writeByte a v).cAlt = s.cAlt := rfl
@[simp] theorem State.writeByte_dAlt (s : State) (a : Word) (v : Byte) : (s.writeByte a v).dAlt = s.dAlt := rfl
@[simp] theorem State.writeByte_eAlt (s : State) (a : Word) (v : Byte) : (s.writeByte a v).eAlt = s.eAlt := rfl
@[simp] theorem State.writeByte_hAlt (s : State) (a : Word) (v : Byte) : (s.writeByte a v).hAlt = s.hAlt := rfl
@[simp] theorem State.writeByte_lAlt (s : State) (a : Word) (v : Byte) : (s.writeByte a v).lAlt = s.lAlt := rfl
@[simp] theorem State.writeByte_ix (s : State) (a : Word) (v : Byte) : (s.writeByte a v).ix = s.ix := rfl
@[simp] theorem State.writeByte_iy (s : State) (a : Word) (v : Byte) : (s.writeByte a v).iy = s.iy := rfl
@[simp] theorem State.writeByte_sp (s : State) (a : Word) (v : Byte) : (s.writeByte a v).sp = s.sp := rfl
@[simp] theorem State.writeByte_pc (s : State) (a : Word) (v : Byte) : (s.writeByte a v).pc = s.pc := rfl
@[simp] theorem State.writeByte_iReg (s : State) (a : Word) (v : Byte) : (s.writeByte a v).iReg = s.iReg := rfl
@[simp] theorem State.writeByte_rReg (s : State) (a : Word) (v : Byte) : (s.writeByte a v).rReg = s.rReg := rfl
@[simp] theorem State.writeByte_iff1 (s : State) (a : Word) (v : Byte) : (s.writeByte a v).iff1 = s.iff1 := rfl
@[simp] theorem State.writeByte_iff2 (s : State) (a : Word) (v : Byte) : (s.writeByte a v).iff2 = s.iff2 := rfl
@[simp] theorem State.writeByte_im (s : State) (a : Word) (v : Byte) : (s.writeByte a v).im = s.im := rfl
@[simp] theorem State.writeByte_halted (s : State) (a : Word) (v : Byte) : (s.writeByte a v).halted = s.halted := rfl
@[simp] theorem State.writeByte_nmiPending (s : State) (a : Word) (v : Byte) : (s.writeByte a v).nmiPending = s.nmiPending := rfl
@[simp] theorem State.writeByte_mem (s : State) (a : Word) (v : Byte) : (s.writeByte a v).mem = s.memAfter a v := rfl
@[simp] theorem State.writeByte_memMap (s : State) (a : Word) (v : Byte) : (s.writeByte a v).memMap = s.memMap := rfl
@[simp] theorem State.writeByte_inputs (s : State) (a : Word) (v : Byte) : (s.writeByte a v).inputs = s.inputs := rfl
@[simp] theorem State.writeByte_ioIn (s : State) (a : Word) (v : Byte) : (s.writeByte a v).ioIn = s.ioIn := rfl
@[simp] theorem State.writeByte_memIn (s : State) (a : Word) (v : Byte) : (s.writeByte a v).memIn = s.memIn := rfl
@[simp] theorem State.writeByte_repeating (s : State) (a : Word) (v : Byte) : (s.writeByte a v).repeating = s.repeating := rfl
@[simp] theorem State.writeByte_trace (s : State) (a : Word) (v : Byte) : (s.writeByte a v).trace = .memWrite a v :: s.trace := rfl
@[simp] theorem State.writeByte_draws (s : State) (a : Word) (v : Byte) : (s.writeByte a v).draws = s.draws := rfl
@[simp] theorem State.writeByte_holds (s : State) (a : Word) (v : Byte) (x : Word) : (s.writeByte a v).holds x = s.holds x := rfl
@[simp] theorem State.writeByte_keeps (s : State) (a : Word) (v : Byte) (x : Word) : (s.writeByte a v).keeps x = s.keeps x := rfl
@[simp] theorem State.writeByte_flags (s : State) (a : Word) (v : Byte) : (s.writeByte a v).flags = s.flags := rfl
@[simp] theorem State.writeByte_bc (s : State) (a : Word) (v : Byte) : (s.writeByte a v).bc = s.bc := rfl
@[simp] theorem State.writeByte_de (s : State) (a : Word) (v : Byte) : (s.writeByte a v).de = s.de := rfl
@[simp] theorem State.writeByte_hl (s : State) (a : Word) (v : Byte) : (s.writeByte a v).hl = s.hl := rfl

@[simp] theorem State.writeWord_a (s : State) (a v : Word) : (s.writeWord a v).a = s.a := by simp [State.writeWord]
@[simp] theorem State.writeWord_f (s : State) (a v : Word) : (s.writeWord a v).f = s.f := by simp [State.writeWord]
@[simp] theorem State.writeWord_b (s : State) (a v : Word) : (s.writeWord a v).b = s.b := by simp [State.writeWord]
@[simp] theorem State.writeWord_c (s : State) (a v : Word) : (s.writeWord a v).c = s.c := by simp [State.writeWord]
@[simp] theorem State.writeWord_d (s : State) (a v : Word) : (s.writeWord a v).d = s.d := by simp [State.writeWord]
@[simp] theorem State.writeWord_e (s : State) (a v : Word) : (s.writeWord a v).e = s.e := by simp [State.writeWord]
@[simp] theorem State.writeWord_h (s : State) (a v : Word) : (s.writeWord a v).h = s.h := by simp [State.writeWord]
@[simp] theorem State.writeWord_l (s : State) (a v : Word) : (s.writeWord a v).l = s.l := by simp [State.writeWord]
@[simp] theorem State.writeWord_aAlt (s : State) (a v : Word) : (s.writeWord a v).aAlt = s.aAlt := by simp [State.writeWord]
@[simp] theorem State.writeWord_fAlt (s : State) (a v : Word) : (s.writeWord a v).fAlt = s.fAlt := by simp [State.writeWord]
@[simp] theorem State.writeWord_bAlt (s : State) (a v : Word) : (s.writeWord a v).bAlt = s.bAlt := by simp [State.writeWord]
@[simp] theorem State.writeWord_cAlt (s : State) (a v : Word) : (s.writeWord a v).cAlt = s.cAlt := by simp [State.writeWord]
@[simp] theorem State.writeWord_dAlt (s : State) (a v : Word) : (s.writeWord a v).dAlt = s.dAlt := by simp [State.writeWord]
@[simp] theorem State.writeWord_eAlt (s : State) (a v : Word) : (s.writeWord a v).eAlt = s.eAlt := by simp [State.writeWord]
@[simp] theorem State.writeWord_hAlt (s : State) (a v : Word) : (s.writeWord a v).hAlt = s.hAlt := by simp [State.writeWord]
@[simp] theorem State.writeWord_lAlt (s : State) (a v : Word) : (s.writeWord a v).lAlt = s.lAlt := by simp [State.writeWord]
@[simp] theorem State.writeWord_ix (s : State) (a v : Word) : (s.writeWord a v).ix = s.ix := by simp [State.writeWord]
@[simp] theorem State.writeWord_iy (s : State) (a v : Word) : (s.writeWord a v).iy = s.iy := by simp [State.writeWord]
@[simp] theorem State.writeWord_sp (s : State) (a v : Word) : (s.writeWord a v).sp = s.sp := by simp [State.writeWord]
@[simp] theorem State.writeWord_pc (s : State) (a v : Word) : (s.writeWord a v).pc = s.pc := by simp [State.writeWord]
@[simp] theorem State.writeWord_iReg (s : State) (a v : Word) : (s.writeWord a v).iReg = s.iReg := by simp [State.writeWord]
@[simp] theorem State.writeWord_rReg (s : State) (a v : Word) : (s.writeWord a v).rReg = s.rReg := by simp [State.writeWord]
@[simp] theorem State.writeWord_iff1 (s : State) (a v : Word) : (s.writeWord a v).iff1 = s.iff1 := by simp [State.writeWord]
@[simp] theorem State.writeWord_iff2 (s : State) (a v : Word) : (s.writeWord a v).iff2 = s.iff2 := by simp [State.writeWord]
@[simp] theorem State.writeWord_im (s : State) (a v : Word) : (s.writeWord a v).im = s.im := by simp [State.writeWord]
@[simp] theorem State.writeWord_halted (s : State) (a v : Word) : (s.writeWord a v).halted = s.halted := by simp [State.writeWord]
@[simp] theorem State.writeWord_nmiPending (s : State) (a v : Word) : (s.writeWord a v).nmiPending = s.nmiPending := by simp [State.writeWord]
@[simp] theorem State.writeWord_mem (s : State) (a v : Word) : (s.writeWord a v).mem = ((s.writeByte a (loByte v)).writeByte (a + 1) (hiByte v)).mem := by simp [State.writeWord]
@[simp] theorem State.writeWord_memMap (s : State) (a v : Word) : (s.writeWord a v).memMap = s.memMap := by simp [State.writeWord]
@[simp] theorem State.writeWord_inputs (s : State) (a v : Word) : (s.writeWord a v).inputs = s.inputs := by simp [State.writeWord]
@[simp] theorem State.writeWord_ioIn (s : State) (a v : Word) : (s.writeWord a v).ioIn = s.ioIn := by simp [State.writeWord]
@[simp] theorem State.writeWord_memIn (s : State) (a v : Word) : (s.writeWord a v).memIn = s.memIn := by simp [State.writeWord]
@[simp] theorem State.writeWord_repeating (s : State) (a v : Word) : (s.writeWord a v).repeating = s.repeating := by simp [State.writeWord]
@[simp] theorem State.writeWord_trace (s : State) (a v : Word) : (s.writeWord a v).trace = .memWrite (a + 1) (hiByte v) :: .memWrite a (loByte v) :: s.trace := by simp [State.writeWord]
@[simp] theorem State.writeWord_draws (s : State) (a v : Word) : (s.writeWord a v).draws = s.draws := by simp [State.writeWord]
@[simp] theorem State.writeWord_holds (s : State) (a v : Word) (x : Word) : (s.writeWord a v).holds x = s.holds x := by simp [State.writeWord]
@[simp] theorem State.writeWord_keeps (s : State) (a v : Word) (x : Word) : (s.writeWord a v).keeps x = s.keeps x := by simp [State.writeWord]
@[simp] theorem State.writeWord_flags (s : State) (a v : Word) : (s.writeWord a v).flags = s.flags := by simp [State.writeWord]
@[simp] theorem State.writeWord_bc (s : State) (a v : Word) : (s.writeWord a v).bc = s.bc := by simp [State.writeWord]
@[simp] theorem State.writeWord_de (s : State) (a v : Word) : (s.writeWord a v).de = s.de := by simp [State.writeWord]
@[simp] theorem State.writeWord_hl (s : State) (a v : Word) : (s.writeWord a v).hl = s.hl := by simp [State.writeWord]

@[simp] theorem State.push16_a (s : State) (v : Word) : (s.push16 v).a = s.a := by simp [State.push16]
@[simp] theorem State.push16_f (s : State) (v : Word) : (s.push16 v).f = s.f := by simp [State.push16]
@[simp] theorem State.push16_b (s : State) (v : Word) : (s.push16 v).b = s.b := by simp [State.push16]
@[simp] theorem State.push16_c (s : State) (v : Word) : (s.push16 v).c = s.c := by simp [State.push16]
@[simp] theorem State.push16_d (s : State) (v : Word) : (s.push16 v).d = s.d := by simp [State.push16]
@[simp] theorem State.push16_e (s : State) (v : Word) : (s.push16 v).e = s.e := by simp [State.push16]
@[simp] theorem State.push16_h (s : State) (v : Word) : (s.push16 v).h = s.h := by simp [State.push16]
@[simp] theorem State.push16_l (s : State) (v : Word) : (s.push16 v).l = s.l := by simp [State.push16]
@[simp] theorem State.push16_aAlt (s : State) (v : Word) : (s.push16 v).aAlt = s.aAlt := by simp [State.push16]
@[simp] theorem State.push16_fAlt (s : State) (v : Word) : (s.push16 v).fAlt = s.fAlt := by simp [State.push16]
@[simp] theorem State.push16_bAlt (s : State) (v : Word) : (s.push16 v).bAlt = s.bAlt := by simp [State.push16]
@[simp] theorem State.push16_cAlt (s : State) (v : Word) : (s.push16 v).cAlt = s.cAlt := by simp [State.push16]
@[simp] theorem State.push16_dAlt (s : State) (v : Word) : (s.push16 v).dAlt = s.dAlt := by simp [State.push16]
@[simp] theorem State.push16_eAlt (s : State) (v : Word) : (s.push16 v).eAlt = s.eAlt := by simp [State.push16]
@[simp] theorem State.push16_hAlt (s : State) (v : Word) : (s.push16 v).hAlt = s.hAlt := by simp [State.push16]
@[simp] theorem State.push16_lAlt (s : State) (v : Word) : (s.push16 v).lAlt = s.lAlt := by simp [State.push16]
@[simp] theorem State.push16_ix (s : State) (v : Word) : (s.push16 v).ix = s.ix := by simp [State.push16]
@[simp] theorem State.push16_iy (s : State) (v : Word) : (s.push16 v).iy = s.iy := by simp [State.push16]
@[simp] theorem State.push16_sp (s : State) (v : Word) : (s.push16 v).sp = s.sp - 2 := by simp [State.push16]
@[simp] theorem State.push16_pc (s : State) (v : Word) : (s.push16 v).pc = s.pc := by simp [State.push16]
@[simp] theorem State.push16_iReg (s : State) (v : Word) : (s.push16 v).iReg = s.iReg := by simp [State.push16]
@[simp] theorem State.push16_rReg (s : State) (v : Word) : (s.push16 v).rReg = s.rReg := by simp [State.push16]
@[simp] theorem State.push16_iff1 (s : State) (v : Word) : (s.push16 v).iff1 = s.iff1 := by simp [State.push16]
@[simp] theorem State.push16_iff2 (s : State) (v : Word) : (s.push16 v).iff2 = s.iff2 := by simp [State.push16]
@[simp] theorem State.push16_im (s : State) (v : Word) : (s.push16 v).im = s.im := by simp [State.push16]
@[simp] theorem State.push16_halted (s : State) (v : Word) : (s.push16 v).halted = s.halted := by simp [State.push16]
@[simp] theorem State.push16_nmiPending (s : State) (v : Word) : (s.push16 v).nmiPending = s.nmiPending := by simp [State.push16]
@[simp] theorem State.push16_mem (s : State) (v : Word) : (s.push16 v).mem = ((s.writeByte (s.sp - 1) (hiByte v)).writeByte (s.sp - 2) (loByte v)).mem := by simp [State.push16]
@[simp] theorem State.push16_memMap (s : State) (v : Word) : (s.push16 v).memMap = s.memMap := by simp [State.push16]
@[simp] theorem State.push16_inputs (s : State) (v : Word) : (s.push16 v).inputs = s.inputs := by simp [State.push16]
@[simp] theorem State.push16_ioIn (s : State) (v : Word) : (s.push16 v).ioIn = s.ioIn := by simp [State.push16]
@[simp] theorem State.push16_memIn (s : State) (v : Word) : (s.push16 v).memIn = s.memIn := by simp [State.push16]
@[simp] theorem State.push16_repeating (s : State) (v : Word) : (s.push16 v).repeating = s.repeating := by simp [State.push16]
@[simp] theorem State.push16_trace (s : State) (v : Word) : (s.push16 v).trace = .memWrite (s.sp - 2) (loByte v) :: .memWrite (s.sp - 1) (hiByte v) :: s.trace := by simp [State.push16]
@[simp] theorem State.push16_draws (s : State) (v : Word) : (s.push16 v).draws = s.draws := by simp [State.push16]
@[simp] theorem State.push16_holds (s : State) (v : Word) (x : Word) : (s.push16 v).holds x = s.holds x := by simp [State.push16]
@[simp] theorem State.push16_keeps (s : State) (v : Word) (x : Word) : (s.push16 v).keeps x = s.keeps x := by simp [State.push16]
@[simp] theorem State.push16_flags (s : State) (v : Word) : (s.push16 v).flags = s.flags := by simp [State.push16]
@[simp] theorem State.push16_bc (s : State) (v : Word) : (s.push16 v).bc = s.bc := by simp [State.push16]
@[simp] theorem State.push16_de (s : State) (v : Word) : (s.push16 v).de = s.de := by simp [State.push16]
@[simp] theorem State.push16_hl (s : State) (v : Word) : (s.push16 v).hl = s.hl := by simp [State.push16]

@[simp] theorem State.storeTop_a (s : State) (v : Word) : (s.storeTop v).a = s.a := by simp [State.storeTop]
@[simp] theorem State.storeTop_f (s : State) (v : Word) : (s.storeTop v).f = s.f := by simp [State.storeTop]
@[simp] theorem State.storeTop_b (s : State) (v : Word) : (s.storeTop v).b = s.b := by simp [State.storeTop]
@[simp] theorem State.storeTop_c (s : State) (v : Word) : (s.storeTop v).c = s.c := by simp [State.storeTop]
@[simp] theorem State.storeTop_d (s : State) (v : Word) : (s.storeTop v).d = s.d := by simp [State.storeTop]
@[simp] theorem State.storeTop_e (s : State) (v : Word) : (s.storeTop v).e = s.e := by simp [State.storeTop]
@[simp] theorem State.storeTop_h (s : State) (v : Word) : (s.storeTop v).h = s.h := by simp [State.storeTop]
@[simp] theorem State.storeTop_l (s : State) (v : Word) : (s.storeTop v).l = s.l := by simp [State.storeTop]
@[simp] theorem State.storeTop_aAlt (s : State) (v : Word) : (s.storeTop v).aAlt = s.aAlt := by simp [State.storeTop]
@[simp] theorem State.storeTop_fAlt (s : State) (v : Word) : (s.storeTop v).fAlt = s.fAlt := by simp [State.storeTop]
@[simp] theorem State.storeTop_bAlt (s : State) (v : Word) : (s.storeTop v).bAlt = s.bAlt := by simp [State.storeTop]
@[simp] theorem State.storeTop_cAlt (s : State) (v : Word) : (s.storeTop v).cAlt = s.cAlt := by simp [State.storeTop]
@[simp] theorem State.storeTop_dAlt (s : State) (v : Word) : (s.storeTop v).dAlt = s.dAlt := by simp [State.storeTop]
@[simp] theorem State.storeTop_eAlt (s : State) (v : Word) : (s.storeTop v).eAlt = s.eAlt := by simp [State.storeTop]
@[simp] theorem State.storeTop_hAlt (s : State) (v : Word) : (s.storeTop v).hAlt = s.hAlt := by simp [State.storeTop]
@[simp] theorem State.storeTop_lAlt (s : State) (v : Word) : (s.storeTop v).lAlt = s.lAlt := by simp [State.storeTop]
@[simp] theorem State.storeTop_ix (s : State) (v : Word) : (s.storeTop v).ix = s.ix := by simp [State.storeTop]
@[simp] theorem State.storeTop_iy (s : State) (v : Word) : (s.storeTop v).iy = s.iy := by simp [State.storeTop]
@[simp] theorem State.storeTop_sp (s : State) (v : Word) : (s.storeTop v).sp = s.sp := by simp [State.storeTop]
@[simp] theorem State.storeTop_pc (s : State) (v : Word) : (s.storeTop v).pc = s.pc := by simp [State.storeTop]
@[simp] theorem State.storeTop_iReg (s : State) (v : Word) : (s.storeTop v).iReg = s.iReg := by simp [State.storeTop]
@[simp] theorem State.storeTop_rReg (s : State) (v : Word) : (s.storeTop v).rReg = s.rReg := by simp [State.storeTop]
@[simp] theorem State.storeTop_iff1 (s : State) (v : Word) : (s.storeTop v).iff1 = s.iff1 := by simp [State.storeTop]
@[simp] theorem State.storeTop_iff2 (s : State) (v : Word) : (s.storeTop v).iff2 = s.iff2 := by simp [State.storeTop]
@[simp] theorem State.storeTop_im (s : State) (v : Word) : (s.storeTop v).im = s.im := by simp [State.storeTop]
@[simp] theorem State.storeTop_halted (s : State) (v : Word) : (s.storeTop v).halted = s.halted := by simp [State.storeTop]
@[simp] theorem State.storeTop_nmiPending (s : State) (v : Word) : (s.storeTop v).nmiPending = s.nmiPending := by simp [State.storeTop]
@[simp] theorem State.storeTop_mem (s : State) (v : Word) : (s.storeTop v).mem = ((s.readWordDone s.sp).writeWord s.sp v).mem := by simp [State.storeTop]
@[simp] theorem State.storeTop_memMap (s : State) (v : Word) : (s.storeTop v).memMap = s.memMap := by simp [State.storeTop]
@[simp] theorem State.storeTop_inputs (s : State) (v : Word) : (s.storeTop v).inputs = s.inputs := by simp [State.storeTop]
@[simp] theorem State.storeTop_ioIn (s : State) (v : Word) : (s.storeTop v).ioIn = s.ioIn := by simp [State.storeTop]
@[simp] theorem State.storeTop_memIn (s : State) (v : Word) : (s.storeTop v).memIn = (s.readWordDone s.sp).memIn := by simp [State.storeTop]
@[simp] theorem State.storeTop_repeating (s : State) (v : Word) : (s.storeTop v).repeating = s.repeating := by simp [State.storeTop]
@[simp] theorem State.storeTop_trace (s : State) (v : Word) : (s.storeTop v).trace = .memWrite (s.sp + 1) (hiByte v) :: .memWrite s.sp (loByte v) :: (s.readWordDone s.sp).trace := by simp [State.storeTop]
@[simp] theorem State.storeTop_draws (s : State) (v : Word) : (s.storeTop v).draws = (s.readWordDone s.sp).draws := by simp [State.storeTop]
@[simp] theorem State.storeTop_holds (s : State) (v : Word) (x : Word) : (s.storeTop v).holds x = s.holds x := by simp [State.storeTop]
@[simp] theorem State.storeTop_keeps (s : State) (v : Word) (x : Word) : (s.storeTop v).keeps x = s.keeps x := by simp [State.storeTop]
@[simp] theorem State.storeTop_flags (s : State) (v : Word) : (s.storeTop v).flags = s.flags := by simp [State.storeTop]
@[simp] theorem State.storeTop_bc (s : State) (v : Word) : (s.storeTop v).bc = s.bc := by simp [State.storeTop]
@[simp] theorem State.storeTop_de (s : State) (v : Word) : (s.storeTop v).de = s.de := by simp [State.storeTop]
@[simp] theorem State.storeTop_hl (s : State) (v : Word) : (s.storeTop v).hl = s.hl := by simp [State.storeTop]

@[simp] theorem State.dropWord_a (s : State) : (s.dropWord).a = s.a := by simp [State.dropWord]
@[simp] theorem State.dropWord_f (s : State) : (s.dropWord).f = s.f := by simp [State.dropWord]
@[simp] theorem State.dropWord_b (s : State) : (s.dropWord).b = s.b := by simp [State.dropWord]
@[simp] theorem State.dropWord_c (s : State) : (s.dropWord).c = s.c := by simp [State.dropWord]
@[simp] theorem State.dropWord_d (s : State) : (s.dropWord).d = s.d := by simp [State.dropWord]
@[simp] theorem State.dropWord_e (s : State) : (s.dropWord).e = s.e := by simp [State.dropWord]
@[simp] theorem State.dropWord_h (s : State) : (s.dropWord).h = s.h := by simp [State.dropWord]
@[simp] theorem State.dropWord_l (s : State) : (s.dropWord).l = s.l := by simp [State.dropWord]
@[simp] theorem State.dropWord_aAlt (s : State) : (s.dropWord).aAlt = s.aAlt := by simp [State.dropWord]
@[simp] theorem State.dropWord_fAlt (s : State) : (s.dropWord).fAlt = s.fAlt := by simp [State.dropWord]
@[simp] theorem State.dropWord_bAlt (s : State) : (s.dropWord).bAlt = s.bAlt := by simp [State.dropWord]
@[simp] theorem State.dropWord_cAlt (s : State) : (s.dropWord).cAlt = s.cAlt := by simp [State.dropWord]
@[simp] theorem State.dropWord_dAlt (s : State) : (s.dropWord).dAlt = s.dAlt := by simp [State.dropWord]
@[simp] theorem State.dropWord_eAlt (s : State) : (s.dropWord).eAlt = s.eAlt := by simp [State.dropWord]
@[simp] theorem State.dropWord_hAlt (s : State) : (s.dropWord).hAlt = s.hAlt := by simp [State.dropWord]
@[simp] theorem State.dropWord_lAlt (s : State) : (s.dropWord).lAlt = s.lAlt := by simp [State.dropWord]
@[simp] theorem State.dropWord_ix (s : State) : (s.dropWord).ix = s.ix := by simp [State.dropWord]
@[simp] theorem State.dropWord_iy (s : State) : (s.dropWord).iy = s.iy := by simp [State.dropWord]
@[simp] theorem State.dropWord_sp (s : State) : (s.dropWord).sp = s.sp + 2 := by simp [State.dropWord]
@[simp] theorem State.dropWord_pc (s : State) : (s.dropWord).pc = s.pc := by simp [State.dropWord]
@[simp] theorem State.dropWord_iReg (s : State) : (s.dropWord).iReg = s.iReg := by simp [State.dropWord]
@[simp] theorem State.dropWord_rReg (s : State) : (s.dropWord).rReg = s.rReg := by simp [State.dropWord]
@[simp] theorem State.dropWord_iff1 (s : State) : (s.dropWord).iff1 = s.iff1 := by simp [State.dropWord]
@[simp] theorem State.dropWord_iff2 (s : State) : (s.dropWord).iff2 = s.iff2 := by simp [State.dropWord]
@[simp] theorem State.dropWord_im (s : State) : (s.dropWord).im = s.im := by simp [State.dropWord]
@[simp] theorem State.dropWord_halted (s : State) : (s.dropWord).halted = s.halted := by simp [State.dropWord]
@[simp] theorem State.dropWord_nmiPending (s : State) : (s.dropWord).nmiPending = s.nmiPending := by simp [State.dropWord]
@[simp] theorem State.dropWord_mem (s : State) : (s.dropWord).mem = s.mem := by simp [State.dropWord]
@[simp] theorem State.dropWord_memMap (s : State) : (s.dropWord).memMap = s.memMap := by simp [State.dropWord]
@[simp] theorem State.dropWord_inputs (s : State) : (s.dropWord).inputs = s.inputs := by simp [State.dropWord]
@[simp] theorem State.dropWord_ioIn (s : State) : (s.dropWord).ioIn = s.ioIn := by simp [State.dropWord]
@[simp] theorem State.dropWord_memIn (s : State) : (s.dropWord).memIn = (s.readWordDone s.sp).memIn := by simp [State.dropWord]
@[simp] theorem State.dropWord_repeating (s : State) : (s.dropWord).repeating = s.repeating := by simp [State.dropWord]
@[simp] theorem State.dropWord_trace (s : State) : (s.dropWord).trace = (s.readWordDone s.sp).trace := by simp [State.dropWord]
@[simp] theorem State.dropWord_draws (s : State) : (s.dropWord).draws = (s.readWordDone s.sp).draws := by simp [State.dropWord]
@[simp] theorem State.dropWord_cell (s : State)  (x : Word) : (s.dropWord).cell x = s.cell x := by simp [State.dropWord]
@[simp] theorem State.dropWord_holds (s : State)  (x : Word) : (s.dropWord).holds x = s.holds x := by simp [State.dropWord]
@[simp] theorem State.dropWord_keeps (s : State)  (x : Word) : (s.dropWord).keeps x = s.keeps x := by simp [State.dropWord]
@[simp] theorem State.dropWord_flags (s : State) : (s.dropWord).flags = s.flags := by simp [State.dropWord]
@[simp] theorem State.dropWord_bc (s : State) : (s.dropWord).bc = s.bc := by simp [State.dropWord]
@[simp] theorem State.dropWord_de (s : State) : (s.dropWord).de = s.de := by simp [State.dropWord]
@[simp] theorem State.dropWord_hl (s : State) : (s.dropWord).hl = s.hl := by simp [State.dropWord]

@[simp] theorem State.returnFromStack_a (s : State) : (s.returnFromStack).a = s.a := by simp [State.returnFromStack]
@[simp] theorem State.returnFromStack_f (s : State) : (s.returnFromStack).f = s.f := by simp [State.returnFromStack]
@[simp] theorem State.returnFromStack_b (s : State) : (s.returnFromStack).b = s.b := by simp [State.returnFromStack]
@[simp] theorem State.returnFromStack_c (s : State) : (s.returnFromStack).c = s.c := by simp [State.returnFromStack]
@[simp] theorem State.returnFromStack_d (s : State) : (s.returnFromStack).d = s.d := by simp [State.returnFromStack]
@[simp] theorem State.returnFromStack_e (s : State) : (s.returnFromStack).e = s.e := by simp [State.returnFromStack]
@[simp] theorem State.returnFromStack_h (s : State) : (s.returnFromStack).h = s.h := by simp [State.returnFromStack]
@[simp] theorem State.returnFromStack_l (s : State) : (s.returnFromStack).l = s.l := by simp [State.returnFromStack]
@[simp] theorem State.returnFromStack_aAlt (s : State) : (s.returnFromStack).aAlt = s.aAlt := by simp [State.returnFromStack]
@[simp] theorem State.returnFromStack_fAlt (s : State) : (s.returnFromStack).fAlt = s.fAlt := by simp [State.returnFromStack]
@[simp] theorem State.returnFromStack_bAlt (s : State) : (s.returnFromStack).bAlt = s.bAlt := by simp [State.returnFromStack]
@[simp] theorem State.returnFromStack_cAlt (s : State) : (s.returnFromStack).cAlt = s.cAlt := by simp [State.returnFromStack]
@[simp] theorem State.returnFromStack_dAlt (s : State) : (s.returnFromStack).dAlt = s.dAlt := by simp [State.returnFromStack]
@[simp] theorem State.returnFromStack_eAlt (s : State) : (s.returnFromStack).eAlt = s.eAlt := by simp [State.returnFromStack]
@[simp] theorem State.returnFromStack_hAlt (s : State) : (s.returnFromStack).hAlt = s.hAlt := by simp [State.returnFromStack]
@[simp] theorem State.returnFromStack_lAlt (s : State) : (s.returnFromStack).lAlt = s.lAlt := by simp [State.returnFromStack]
@[simp] theorem State.returnFromStack_ix (s : State) : (s.returnFromStack).ix = s.ix := by simp [State.returnFromStack]
@[simp] theorem State.returnFromStack_iy (s : State) : (s.returnFromStack).iy = s.iy := by simp [State.returnFromStack]
@[simp] theorem State.returnFromStack_sp (s : State) : (s.returnFromStack).sp = s.sp + 2 := by simp [State.returnFromStack]
@[simp] theorem State.returnFromStack_pc (s : State) : (s.returnFromStack).pc = s.topWord := by simp [State.returnFromStack]
@[simp] theorem State.returnFromStack_iReg (s : State) : (s.returnFromStack).iReg = s.iReg := by simp [State.returnFromStack]
@[simp] theorem State.returnFromStack_rReg (s : State) : (s.returnFromStack).rReg = s.rReg := by simp [State.returnFromStack]
@[simp] theorem State.returnFromStack_iff1 (s : State) : (s.returnFromStack).iff1 = s.iff1 := by simp [State.returnFromStack]
@[simp] theorem State.returnFromStack_iff2 (s : State) : (s.returnFromStack).iff2 = s.iff2 := by simp [State.returnFromStack]
@[simp] theorem State.returnFromStack_im (s : State) : (s.returnFromStack).im = s.im := by simp [State.returnFromStack]
@[simp] theorem State.returnFromStack_halted (s : State) : (s.returnFromStack).halted = s.halted := by simp [State.returnFromStack]
@[simp] theorem State.returnFromStack_nmiPending (s : State) : (s.returnFromStack).nmiPending = s.nmiPending := by simp [State.returnFromStack]
@[simp] theorem State.returnFromStack_mem (s : State) : (s.returnFromStack).mem = s.mem := by simp [State.returnFromStack]
@[simp] theorem State.returnFromStack_memMap (s : State) : (s.returnFromStack).memMap = s.memMap := by simp [State.returnFromStack]
@[simp] theorem State.returnFromStack_inputs (s : State) : (s.returnFromStack).inputs = s.inputs := by simp [State.returnFromStack]
@[simp] theorem State.returnFromStack_ioIn (s : State) : (s.returnFromStack).ioIn = s.ioIn := by simp [State.returnFromStack]
@[simp] theorem State.returnFromStack_memIn (s : State) : (s.returnFromStack).memIn = (s.readWordDone s.sp).memIn := by simp [State.returnFromStack]
@[simp] theorem State.returnFromStack_repeating (s : State) : (s.returnFromStack).repeating = s.repeating := by simp [State.returnFromStack]
@[simp] theorem State.returnFromStack_trace (s : State) : (s.returnFromStack).trace = (s.readWordDone s.sp).trace := by simp [State.returnFromStack]
@[simp] theorem State.returnFromStack_draws (s : State) : (s.returnFromStack).draws = (s.readWordDone s.sp).draws := by simp [State.returnFromStack]
@[simp] theorem State.returnFromStack_cell (s : State)  (x : Word) : (s.returnFromStack).cell x = s.cell x := by simp [State.returnFromStack]
@[simp] theorem State.returnFromStack_holds (s : State)  (x : Word) : (s.returnFromStack).holds x = s.holds x := by simp [State.returnFromStack]
@[simp] theorem State.returnFromStack_keeps (s : State)  (x : Word) : (s.returnFromStack).keeps x = s.keeps x := by simp [State.returnFromStack]
@[simp] theorem State.returnFromStack_flags (s : State) : (s.returnFromStack).flags = s.flags := by simp [State.returnFromStack]
@[simp] theorem State.returnFromStack_bc (s : State) : (s.returnFromStack).bc = s.bc := by simp [State.returnFromStack]
@[simp] theorem State.returnFromStack_de (s : State) : (s.returnFromStack).de = s.de := by simp [State.returnFromStack]
@[simp] theorem State.returnFromStack_hl (s : State) : (s.returnFromStack).hl = s.hl := by simp [State.returnFromStack]

@[simp] theorem State.resetUser_a (s : State) : (s.resetUser).a = s.a := rfl
@[simp] theorem State.resetUser_f (s : State) : (s.resetUser).f = s.f := rfl
@[simp] theorem State.resetUser_b (s : State) : (s.resetUser).b = s.b := rfl
@[simp] theorem State.resetUser_c (s : State) : (s.resetUser).c = s.c := rfl
@[simp] theorem State.resetUser_d (s : State) : (s.resetUser).d = s.d := rfl
@[simp] theorem State.resetUser_e (s : State) : (s.resetUser).e = s.e := rfl
@[simp] theorem State.resetUser_h (s : State) : (s.resetUser).h = s.h := rfl
@[simp] theorem State.resetUser_l (s : State) : (s.resetUser).l = s.l := rfl
@[simp] theorem State.resetUser_aAlt (s : State) : (s.resetUser).aAlt = s.aAlt := rfl
@[simp] theorem State.resetUser_fAlt (s : State) : (s.resetUser).fAlt = s.fAlt := rfl
@[simp] theorem State.resetUser_bAlt (s : State) : (s.resetUser).bAlt = s.bAlt := rfl
@[simp] theorem State.resetUser_cAlt (s : State) : (s.resetUser).cAlt = s.cAlt := rfl
@[simp] theorem State.resetUser_dAlt (s : State) : (s.resetUser).dAlt = s.dAlt := rfl
@[simp] theorem State.resetUser_eAlt (s : State) : (s.resetUser).eAlt = s.eAlt := rfl
@[simp] theorem State.resetUser_hAlt (s : State) : (s.resetUser).hAlt = s.hAlt := rfl
@[simp] theorem State.resetUser_lAlt (s : State) : (s.resetUser).lAlt = s.lAlt := rfl
@[simp] theorem State.resetUser_ix (s : State) : (s.resetUser).ix = s.ix := rfl
@[simp] theorem State.resetUser_iy (s : State) : (s.resetUser).iy = s.iy := rfl
@[simp] theorem State.resetUser_sp (s : State) : (s.resetUser).sp = Config.resetSp := rfl
@[simp] theorem State.resetUser_pc (s : State) : (s.resetUser).pc = 0x0000#16 := rfl
@[simp] theorem State.resetUser_iReg (s : State) : (s.resetUser).iReg = Config.resetI := rfl
@[simp] theorem State.resetUser_rReg (s : State) : (s.resetUser).rReg = Config.resetR := rfl
@[simp] theorem State.resetUser_iff1 (s : State) : (s.resetUser).iff1 = false := rfl
@[simp] theorem State.resetUser_iff2 (s : State) : (s.resetUser).iff2 = false := rfl
@[simp] theorem State.resetUser_im (s : State) : (s.resetUser).im = .im0 := rfl
@[simp] theorem State.resetUser_halted (s : State) : (s.resetUser).halted = false := rfl
@[simp] theorem State.resetUser_nmiPending (s : State) : (s.resetUser).nmiPending = false := rfl
@[simp] theorem State.resetUser_mem (s : State) : (s.resetUser).mem = s.mem := rfl
@[simp] theorem State.resetUser_memMap (s : State) : (s.resetUser).memMap = s.memMap := rfl
@[simp] theorem State.resetUser_inputs (s : State) : (s.resetUser).inputs = s.inputs := rfl
@[simp] theorem State.resetUser_ioIn (s : State) : (s.resetUser).ioIn = s.ioIn := rfl
@[simp] theorem State.resetUser_memIn (s : State) : (s.resetUser).memIn = s.memIn := rfl
@[simp] theorem State.resetUser_repeating (s : State) : (s.resetUser).repeating = false := rfl
@[simp] theorem State.resetUser_trace (s : State) : (s.resetUser).trace = s.trace := rfl
@[simp] theorem State.resetUser_draws (s : State) : (s.resetUser).draws = s.draws := rfl
@[simp] theorem State.resetUser_cell (s : State)  (x : Word) : (s.resetUser).cell x = s.cell x := rfl
@[simp] theorem State.resetUser_holds (s : State)  (x : Word) : (s.resetUser).holds x = s.holds x := rfl
@[simp] theorem State.resetUser_keeps (s : State)  (x : Word) : (s.resetUser).keeps x = s.keeps x := rfl
@[simp] theorem State.resetUser_readByte (s : State)  (x : Word) : (s.resetUser).readByte x = s.readByte x := rfl
@[simp] theorem State.resetUser_flags (s : State) : (s.resetUser).flags = s.flags := rfl
@[simp] theorem State.resetUser_bc (s : State) : (s.resetUser).bc = s.bc := rfl
@[simp] theorem State.resetUser_de (s : State) : (s.resetUser).de = s.de := rfl
@[simp] theorem State.resetUser_hl (s : State) : (s.resetUser).hl = s.hl := rfl

@[simp] theorem State.sampled_a (s : State) : (s.sampled).a = s.a := rfl
@[simp] theorem State.sampled_f (s : State) : (s.sampled).f = s.f := rfl
@[simp] theorem State.sampled_b (s : State) : (s.sampled).b = s.b := rfl
@[simp] theorem State.sampled_c (s : State) : (s.sampled).c = s.c := rfl
@[simp] theorem State.sampled_d (s : State) : (s.sampled).d = s.d := rfl
@[simp] theorem State.sampled_e (s : State) : (s.sampled).e = s.e := rfl
@[simp] theorem State.sampled_h (s : State) : (s.sampled).h = s.h := rfl
@[simp] theorem State.sampled_l (s : State) : (s.sampled).l = s.l := rfl
@[simp] theorem State.sampled_aAlt (s : State) : (s.sampled).aAlt = s.aAlt := rfl
@[simp] theorem State.sampled_fAlt (s : State) : (s.sampled).fAlt = s.fAlt := rfl
@[simp] theorem State.sampled_bAlt (s : State) : (s.sampled).bAlt = s.bAlt := rfl
@[simp] theorem State.sampled_cAlt (s : State) : (s.sampled).cAlt = s.cAlt := rfl
@[simp] theorem State.sampled_dAlt (s : State) : (s.sampled).dAlt = s.dAlt := rfl
@[simp] theorem State.sampled_eAlt (s : State) : (s.sampled).eAlt = s.eAlt := rfl
@[simp] theorem State.sampled_hAlt (s : State) : (s.sampled).hAlt = s.hAlt := rfl
@[simp] theorem State.sampled_lAlt (s : State) : (s.sampled).lAlt = s.lAlt := rfl
@[simp] theorem State.sampled_ix (s : State) : (s.sampled).ix = s.ix := rfl
@[simp] theorem State.sampled_iy (s : State) : (s.sampled).iy = s.iy := rfl
@[simp] theorem State.sampled_sp (s : State) : (s.sampled).sp = s.sp := rfl
@[simp] theorem State.sampled_pc (s : State) : (s.sampled).pc = s.pc := rfl
@[simp] theorem State.sampled_iReg (s : State) : (s.sampled).iReg = s.iReg := rfl
@[simp] theorem State.sampled_rReg (s : State) : (s.sampled).rReg = s.rReg := rfl
@[simp] theorem State.sampled_iff1 (s : State) : (s.sampled).iff1 = s.iff1 := rfl
@[simp] theorem State.sampled_iff2 (s : State) : (s.sampled).iff2 = s.iff2 := rfl
@[simp] theorem State.sampled_im (s : State) : (s.sampled).im = s.im := rfl
@[simp] theorem State.sampled_halted (s : State) : (s.sampled).halted = s.halted := rfl
@[simp] theorem State.sampled_nmiPending (s : State) : (s.sampled).nmiPending = (s.nmiPending || s.sample.nmiReq) := rfl
@[simp] theorem State.sampled_mem (s : State) : (s.sampled).mem = s.mem := rfl
@[simp] theorem State.sampled_memMap (s : State) : (s.sampled).memMap = s.memMap := rfl
@[simp] theorem State.sampled_inputs (s : State) : (s.sampled).inputs = s.inputs.tail := rfl
@[simp] theorem State.sampled_ioIn (s : State) : (s.sampled).ioIn = s.ioIn := rfl
@[simp] theorem State.sampled_memIn (s : State) : (s.sampled).memIn = s.memIn := rfl
@[simp] theorem State.sampled_repeating (s : State) : (s.sampled).repeating = s.repeating := rfl
@[simp] theorem State.sampled_trace (s : State) : (s.sampled).trace = s.trace := rfl
@[simp] theorem State.sampled_draws (s : State) : (s.sampled).draws = s.draws := rfl
@[simp] theorem State.sampled_cell (s : State)  (x : Word) : (s.sampled).cell x = s.cell x := rfl
@[simp] theorem State.sampled_holds (s : State)  (x : Word) : (s.sampled).holds x = s.holds x := rfl
@[simp] theorem State.sampled_keeps (s : State)  (x : Word) : (s.sampled).keeps x = s.keeps x := rfl
@[simp] theorem State.sampled_readByte (s : State)  (x : Word) : (s.sampled).readByte x = s.readByte x := rfl
@[simp] theorem State.sampled_flags (s : State) : (s.sampled).flags = s.flags := rfl
@[simp] theorem State.sampled_bc (s : State) : (s.sampled).bc = s.bc := rfl
@[simp] theorem State.sampled_de (s : State) : (s.sampled).de = s.de := rfl
@[simp] theorem State.sampled_hl (s : State) : (s.sampled).hl = s.hl := rfl

/-! The updates that select a register by its name. -/

@[simp] theorem State.setR8_a (s : State) (r : Reg8) (v : Byte) : (s.setR8 r v).a = if r = .a then v else s.a := by cases r <;> rfl
@[simp] theorem State.setR8_f (s : State) (r : Reg8) (v : Byte) : (s.setR8 r v).f = s.f := by cases r <;> rfl
@[simp] theorem State.setR8_b (s : State) (r : Reg8) (v : Byte) : (s.setR8 r v).b = if r = .b then v else s.b := by cases r <;> rfl
@[simp] theorem State.setR8_c (s : State) (r : Reg8) (v : Byte) : (s.setR8 r v).c = if r = .c then v else s.c := by cases r <;> rfl
@[simp] theorem State.setR8_d (s : State) (r : Reg8) (v : Byte) : (s.setR8 r v).d = if r = .d then v else s.d := by cases r <;> rfl
@[simp] theorem State.setR8_e (s : State) (r : Reg8) (v : Byte) : (s.setR8 r v).e = if r = .e then v else s.e := by cases r <;> rfl
@[simp] theorem State.setR8_h (s : State) (r : Reg8) (v : Byte) : (s.setR8 r v).h = if r = .h then v else s.h := by cases r <;> rfl
@[simp] theorem State.setR8_l (s : State) (r : Reg8) (v : Byte) : (s.setR8 r v).l = if r = .l then v else s.l := by cases r <;> rfl
@[simp] theorem State.setR8_aAlt (s : State) (r : Reg8) (v : Byte) : (s.setR8 r v).aAlt = s.aAlt := by cases r <;> rfl
@[simp] theorem State.setR8_fAlt (s : State) (r : Reg8) (v : Byte) : (s.setR8 r v).fAlt = s.fAlt := by cases r <;> rfl
@[simp] theorem State.setR8_bAlt (s : State) (r : Reg8) (v : Byte) : (s.setR8 r v).bAlt = s.bAlt := by cases r <;> rfl
@[simp] theorem State.setR8_cAlt (s : State) (r : Reg8) (v : Byte) : (s.setR8 r v).cAlt = s.cAlt := by cases r <;> rfl
@[simp] theorem State.setR8_dAlt (s : State) (r : Reg8) (v : Byte) : (s.setR8 r v).dAlt = s.dAlt := by cases r <;> rfl
@[simp] theorem State.setR8_eAlt (s : State) (r : Reg8) (v : Byte) : (s.setR8 r v).eAlt = s.eAlt := by cases r <;> rfl
@[simp] theorem State.setR8_hAlt (s : State) (r : Reg8) (v : Byte) : (s.setR8 r v).hAlt = s.hAlt := by cases r <;> rfl
@[simp] theorem State.setR8_lAlt (s : State) (r : Reg8) (v : Byte) : (s.setR8 r v).lAlt = s.lAlt := by cases r <;> rfl
@[simp] theorem State.setR8_ix (s : State) (r : Reg8) (v : Byte) : (s.setR8 r v).ix = s.ix := by cases r <;> rfl
@[simp] theorem State.setR8_iy (s : State) (r : Reg8) (v : Byte) : (s.setR8 r v).iy = s.iy := by cases r <;> rfl
@[simp] theorem State.setR8_sp (s : State) (r : Reg8) (v : Byte) : (s.setR8 r v).sp = s.sp := by cases r <;> rfl
@[simp] theorem State.setR8_pc (s : State) (r : Reg8) (v : Byte) : (s.setR8 r v).pc = s.pc := by cases r <;> rfl
@[simp] theorem State.setR8_iReg (s : State) (r : Reg8) (v : Byte) : (s.setR8 r v).iReg = s.iReg := by cases r <;> rfl
@[simp] theorem State.setR8_rReg (s : State) (r : Reg8) (v : Byte) : (s.setR8 r v).rReg = s.rReg := by cases r <;> rfl
@[simp] theorem State.setR8_iff1 (s : State) (r : Reg8) (v : Byte) : (s.setR8 r v).iff1 = s.iff1 := by cases r <;> rfl
@[simp] theorem State.setR8_iff2 (s : State) (r : Reg8) (v : Byte) : (s.setR8 r v).iff2 = s.iff2 := by cases r <;> rfl
@[simp] theorem State.setR8_im (s : State) (r : Reg8) (v : Byte) : (s.setR8 r v).im = s.im := by cases r <;> rfl
@[simp] theorem State.setR8_halted (s : State) (r : Reg8) (v : Byte) : (s.setR8 r v).halted = s.halted := by cases r <;> rfl
@[simp] theorem State.setR8_nmiPending (s : State) (r : Reg8) (v : Byte) : (s.setR8 r v).nmiPending = s.nmiPending := by cases r <;> rfl
@[simp] theorem State.setR8_mem (s : State) (r : Reg8) (v : Byte) : (s.setR8 r v).mem = s.mem := by cases r <;> rfl
@[simp] theorem State.setR8_memMap (s : State) (r : Reg8) (v : Byte) : (s.setR8 r v).memMap = s.memMap := by cases r <;> rfl
@[simp] theorem State.setR8_inputs (s : State) (r : Reg8) (v : Byte) : (s.setR8 r v).inputs = s.inputs := by cases r <;> rfl
@[simp] theorem State.setR8_ioIn (s : State) (r : Reg8) (v : Byte) : (s.setR8 r v).ioIn = s.ioIn := by cases r <;> rfl
@[simp] theorem State.setR8_memIn (s : State) (r : Reg8) (v : Byte) : (s.setR8 r v).memIn = s.memIn := by cases r <;> rfl
@[simp] theorem State.setR8_repeating (s : State) (r : Reg8) (v : Byte) : (s.setR8 r v).repeating = s.repeating := by cases r <;> rfl
@[simp] theorem State.setR8_trace (s : State) (r : Reg8) (v : Byte) : (s.setR8 r v).trace = s.trace := by cases r <;> rfl
@[simp] theorem State.setR8_draws (s : State) (r : Reg8) (v : Byte) : (s.setR8 r v).draws = s.draws := by cases r <;> rfl

@[simp] theorem State.setRdd_a (s : State) (r : RegDD) (v : Word) : (s.setRdd r v).a = s.a := by cases r <;> rfl
@[simp] theorem State.setRdd_f (s : State) (r : RegDD) (v : Word) : (s.setRdd r v).f = s.f := by cases r <;> rfl
@[simp] theorem State.setRdd_b (s : State) (r : RegDD) (v : Word) : (s.setRdd r v).b = if r = .bc then hiByte v else s.b := by cases r <;> rfl
@[simp] theorem State.setRdd_c (s : State) (r : RegDD) (v : Word) : (s.setRdd r v).c = if r = .bc then loByte v else s.c := by cases r <;> rfl
@[simp] theorem State.setRdd_d (s : State) (r : RegDD) (v : Word) : (s.setRdd r v).d = if r = .de then hiByte v else s.d := by cases r <;> rfl
@[simp] theorem State.setRdd_e (s : State) (r : RegDD) (v : Word) : (s.setRdd r v).e = if r = .de then loByte v else s.e := by cases r <;> rfl
@[simp] theorem State.setRdd_h (s : State) (r : RegDD) (v : Word) : (s.setRdd r v).h = if r = .hl then hiByte v else s.h := by cases r <;> rfl
@[simp] theorem State.setRdd_l (s : State) (r : RegDD) (v : Word) : (s.setRdd r v).l = if r = .hl then loByte v else s.l := by cases r <;> rfl
@[simp] theorem State.setRdd_aAlt (s : State) (r : RegDD) (v : Word) : (s.setRdd r v).aAlt = s.aAlt := by cases r <;> rfl
@[simp] theorem State.setRdd_fAlt (s : State) (r : RegDD) (v : Word) : (s.setRdd r v).fAlt = s.fAlt := by cases r <;> rfl
@[simp] theorem State.setRdd_bAlt (s : State) (r : RegDD) (v : Word) : (s.setRdd r v).bAlt = s.bAlt := by cases r <;> rfl
@[simp] theorem State.setRdd_cAlt (s : State) (r : RegDD) (v : Word) : (s.setRdd r v).cAlt = s.cAlt := by cases r <;> rfl
@[simp] theorem State.setRdd_dAlt (s : State) (r : RegDD) (v : Word) : (s.setRdd r v).dAlt = s.dAlt := by cases r <;> rfl
@[simp] theorem State.setRdd_eAlt (s : State) (r : RegDD) (v : Word) : (s.setRdd r v).eAlt = s.eAlt := by cases r <;> rfl
@[simp] theorem State.setRdd_hAlt (s : State) (r : RegDD) (v : Word) : (s.setRdd r v).hAlt = s.hAlt := by cases r <;> rfl
@[simp] theorem State.setRdd_lAlt (s : State) (r : RegDD) (v : Word) : (s.setRdd r v).lAlt = s.lAlt := by cases r <;> rfl
@[simp] theorem State.setRdd_ix (s : State) (r : RegDD) (v : Word) : (s.setRdd r v).ix = s.ix := by cases r <;> rfl
@[simp] theorem State.setRdd_iy (s : State) (r : RegDD) (v : Word) : (s.setRdd r v).iy = s.iy := by cases r <;> rfl
@[simp] theorem State.setRdd_sp (s : State) (r : RegDD) (v : Word) : (s.setRdd r v).sp = if r = .sp then v else s.sp := by cases r <;> rfl
@[simp] theorem State.setRdd_pc (s : State) (r : RegDD) (v : Word) : (s.setRdd r v).pc = s.pc := by cases r <;> rfl
@[simp] theorem State.setRdd_iReg (s : State) (r : RegDD) (v : Word) : (s.setRdd r v).iReg = s.iReg := by cases r <;> rfl
@[simp] theorem State.setRdd_rReg (s : State) (r : RegDD) (v : Word) : (s.setRdd r v).rReg = s.rReg := by cases r <;> rfl
@[simp] theorem State.setRdd_iff1 (s : State) (r : RegDD) (v : Word) : (s.setRdd r v).iff1 = s.iff1 := by cases r <;> rfl
@[simp] theorem State.setRdd_iff2 (s : State) (r : RegDD) (v : Word) : (s.setRdd r v).iff2 = s.iff2 := by cases r <;> rfl
@[simp] theorem State.setRdd_im (s : State) (r : RegDD) (v : Word) : (s.setRdd r v).im = s.im := by cases r <;> rfl
@[simp] theorem State.setRdd_halted (s : State) (r : RegDD) (v : Word) : (s.setRdd r v).halted = s.halted := by cases r <;> rfl
@[simp] theorem State.setRdd_nmiPending (s : State) (r : RegDD) (v : Word) : (s.setRdd r v).nmiPending = s.nmiPending := by cases r <;> rfl
@[simp] theorem State.setRdd_mem (s : State) (r : RegDD) (v : Word) : (s.setRdd r v).mem = s.mem := by cases r <;> rfl
@[simp] theorem State.setRdd_memMap (s : State) (r : RegDD) (v : Word) : (s.setRdd r v).memMap = s.memMap := by cases r <;> rfl
@[simp] theorem State.setRdd_inputs (s : State) (r : RegDD) (v : Word) : (s.setRdd r v).inputs = s.inputs := by cases r <;> rfl
@[simp] theorem State.setRdd_ioIn (s : State) (r : RegDD) (v : Word) : (s.setRdd r v).ioIn = s.ioIn := by cases r <;> rfl
@[simp] theorem State.setRdd_memIn (s : State) (r : RegDD) (v : Word) : (s.setRdd r v).memIn = s.memIn := by cases r <;> rfl
@[simp] theorem State.setRdd_repeating (s : State) (r : RegDD) (v : Word) : (s.setRdd r v).repeating = s.repeating := by cases r <;> rfl
@[simp] theorem State.setRdd_trace (s : State) (r : RegDD) (v : Word) : (s.setRdd r v).trace = s.trace := by cases r <;> rfl
@[simp] theorem State.setRdd_draws (s : State) (r : RegDD) (v : Word) : (s.setRdd r v).draws = s.draws := by cases r <;> rfl

@[simp] theorem State.setRtt_a (s : State) (r : RegTT) (v : Word) : (s.setRtt r v).a = if r = .af then hiByte v else s.a := by cases r <;> rfl
@[simp] theorem State.setRtt_f (s : State) (r : RegTT) (v : Word) : (s.setRtt r v).f = if r = .af then loByte v else s.f := by cases r <;> rfl
@[simp] theorem State.setRtt_b (s : State) (r : RegTT) (v : Word) : (s.setRtt r v).b = if r = .bc then hiByte v else s.b := by cases r <;> rfl
@[simp] theorem State.setRtt_c (s : State) (r : RegTT) (v : Word) : (s.setRtt r v).c = if r = .bc then loByte v else s.c := by cases r <;> rfl
@[simp] theorem State.setRtt_d (s : State) (r : RegTT) (v : Word) : (s.setRtt r v).d = if r = .de then hiByte v else s.d := by cases r <;> rfl
@[simp] theorem State.setRtt_e (s : State) (r : RegTT) (v : Word) : (s.setRtt r v).e = if r = .de then loByte v else s.e := by cases r <;> rfl
@[simp] theorem State.setRtt_h (s : State) (r : RegTT) (v : Word) : (s.setRtt r v).h = if r = .hl then hiByte v else s.h := by cases r <;> rfl
@[simp] theorem State.setRtt_l (s : State) (r : RegTT) (v : Word) : (s.setRtt r v).l = if r = .hl then loByte v else s.l := by cases r <;> rfl
@[simp] theorem State.setRtt_aAlt (s : State) (r : RegTT) (v : Word) : (s.setRtt r v).aAlt = s.aAlt := by cases r <;> rfl
@[simp] theorem State.setRtt_fAlt (s : State) (r : RegTT) (v : Word) : (s.setRtt r v).fAlt = s.fAlt := by cases r <;> rfl
@[simp] theorem State.setRtt_bAlt (s : State) (r : RegTT) (v : Word) : (s.setRtt r v).bAlt = s.bAlt := by cases r <;> rfl
@[simp] theorem State.setRtt_cAlt (s : State) (r : RegTT) (v : Word) : (s.setRtt r v).cAlt = s.cAlt := by cases r <;> rfl
@[simp] theorem State.setRtt_dAlt (s : State) (r : RegTT) (v : Word) : (s.setRtt r v).dAlt = s.dAlt := by cases r <;> rfl
@[simp] theorem State.setRtt_eAlt (s : State) (r : RegTT) (v : Word) : (s.setRtt r v).eAlt = s.eAlt := by cases r <;> rfl
@[simp] theorem State.setRtt_hAlt (s : State) (r : RegTT) (v : Word) : (s.setRtt r v).hAlt = s.hAlt := by cases r <;> rfl
@[simp] theorem State.setRtt_lAlt (s : State) (r : RegTT) (v : Word) : (s.setRtt r v).lAlt = s.lAlt := by cases r <;> rfl
@[simp] theorem State.setRtt_ix (s : State) (r : RegTT) (v : Word) : (s.setRtt r v).ix = s.ix := by cases r <;> rfl
@[simp] theorem State.setRtt_iy (s : State) (r : RegTT) (v : Word) : (s.setRtt r v).iy = s.iy := by cases r <;> rfl
@[simp] theorem State.setRtt_sp (s : State) (r : RegTT) (v : Word) : (s.setRtt r v).sp = s.sp := by cases r <;> rfl
@[simp] theorem State.setRtt_pc (s : State) (r : RegTT) (v : Word) : (s.setRtt r v).pc = s.pc := by cases r <;> rfl
@[simp] theorem State.setRtt_iReg (s : State) (r : RegTT) (v : Word) : (s.setRtt r v).iReg = s.iReg := by cases r <;> rfl
@[simp] theorem State.setRtt_rReg (s : State) (r : RegTT) (v : Word) : (s.setRtt r v).rReg = s.rReg := by cases r <;> rfl
@[simp] theorem State.setRtt_iff1 (s : State) (r : RegTT) (v : Word) : (s.setRtt r v).iff1 = s.iff1 := by cases r <;> rfl
@[simp] theorem State.setRtt_iff2 (s : State) (r : RegTT) (v : Word) : (s.setRtt r v).iff2 = s.iff2 := by cases r <;> rfl
@[simp] theorem State.setRtt_im (s : State) (r : RegTT) (v : Word) : (s.setRtt r v).im = s.im := by cases r <;> rfl
@[simp] theorem State.setRtt_halted (s : State) (r : RegTT) (v : Word) : (s.setRtt r v).halted = s.halted := by cases r <;> rfl
@[simp] theorem State.setRtt_nmiPending (s : State) (r : RegTT) (v : Word) : (s.setRtt r v).nmiPending = s.nmiPending := by cases r <;> rfl
@[simp] theorem State.setRtt_mem (s : State) (r : RegTT) (v : Word) : (s.setRtt r v).mem = s.mem := by cases r <;> rfl
@[simp] theorem State.setRtt_memMap (s : State) (r : RegTT) (v : Word) : (s.setRtt r v).memMap = s.memMap := by cases r <;> rfl
@[simp] theorem State.setRtt_inputs (s : State) (r : RegTT) (v : Word) : (s.setRtt r v).inputs = s.inputs := by cases r <;> rfl
@[simp] theorem State.setRtt_ioIn (s : State) (r : RegTT) (v : Word) : (s.setRtt r v).ioIn = s.ioIn := by cases r <;> rfl
@[simp] theorem State.setRtt_memIn (s : State) (r : RegTT) (v : Word) : (s.setRtt r v).memIn = s.memIn := by cases r <;> rfl
@[simp] theorem State.setRtt_repeating (s : State) (r : RegTT) (v : Word) : (s.setRtt r v).repeating = s.repeating := by cases r <;> rfl
@[simp] theorem State.setRtt_trace (s : State) (r : RegTT) (v : Word) : (s.setRtt r v).trace = s.trace := by cases r <;> rfl
@[simp] theorem State.setRtt_draws (s : State) (r : RegTT) (v : Word) : (s.setRtt r v).draws = s.draws := by cases r <;> rfl

@[simp] theorem State.setR8_r8 (s : State) (r : Reg8) (v : Byte) : (s.setR8 r v).r8 r = v := by cases r <;> rfl
@[simp] theorem State.setR8_cell (s : State) (r : Reg8) (v : Byte) (x : Word) :
    (s.setR8 r v).cell x = s.cell x := by cases r <;> rfl
@[simp] theorem State.setR8_holds (s : State) (r : Reg8) (v : Byte) (x : Word) :
    (s.setR8 r v).holds x = s.holds x := by cases r <;> rfl
@[simp] theorem State.setR8_keeps (s : State) (r : Reg8) (v : Byte) (x : Word) :
    (s.setR8 r v).keeps x = s.keeps x := by cases r <;> rfl
@[simp] theorem State.setR8_readByte (s : State) (r : Reg8) (v : Byte) (x : Word) :
    (s.setR8 r v).readByte x = s.readByte x := by cases r <;> rfl
@[simp] theorem State.setR8_flags (s : State) (r : Reg8) (v : Byte) : (s.setR8 r v).flags = s.flags := by cases r <;> rfl
@[simp] theorem State.setRdd_rdd (s : State) (r : RegDD) (v : Word) : (s.setRdd r v).rdd r = v := by
  cases r <;> simp [State.rdd, State.setRdd]
@[simp] theorem State.setRdd_cell (s : State) (r : RegDD) (v x : Word) :
    (s.setRdd r v).cell x = s.cell x := by cases r <;> rfl
@[simp] theorem State.setRdd_holds (s : State) (r : RegDD) (v x : Word) :
    (s.setRdd r v).holds x = s.holds x := by cases r <;> rfl
@[simp] theorem State.setRdd_keeps (s : State) (r : RegDD) (v x : Word) :
    (s.setRdd r v).keeps x = s.keeps x := by cases r <;> rfl
@[simp] theorem State.setRdd_readByte (s : State) (r : RegDD) (v x : Word) :
    (s.setRdd r v).readByte x = s.readByte x := by cases r <;> rfl
@[simp] theorem State.setRdd_flags (s : State) (r : RegDD) (v : Word) : (s.setRdd r v).flags = s.flags := by cases r <;> rfl
@[simp] theorem State.setRtt_rtt (s : State) (r : RegTT) (v : Word) : (s.setRtt r v).rtt r = v := by
  cases r <;> simp [State.rtt, State.setRtt, State.af]
@[simp] theorem State.setRtt_cell (s : State) (r : RegTT) (v x : Word) :
    (s.setRtt r v).cell x = s.cell x := by cases r <;> rfl
@[simp] theorem State.setRtt_holds (s : State) (r : RegTT) (v x : Word) :
    (s.setRtt r v).holds x = s.holds x := by cases r <;> rfl
@[simp] theorem State.setRtt_keeps (s : State) (r : RegTT) (v x : Word) :
    (s.setRtt r v).keeps x = s.keeps x := by cases r <;> rfl
@[simp] theorem State.setRtt_readByte (s : State) (r : RegTT) (v x : Word) :
    (s.setRtt r v).readByte x = s.readByte x := by cases r <;> rfl
@[simp] theorem State.ioReadDone_cell (s : State) (port x : Word) :
    (s.ioReadDone port).cell x = s.cell x := by unfold State.ioReadDone; split <;> rfl
@[simp] theorem State.ioReadDone_holds (s : State) (port x : Word) :
    (s.ioReadDone port).holds x = s.holds x := by unfold State.ioReadDone; split <;> rfl
@[simp] theorem State.ioReadDone_keeps (s : State) (port x : Word) :
    (s.ioReadDone port).keeps x = s.keeps x := by unfold State.ioReadDone; split <;> rfl
@[simp] theorem State.ioReadDone_flags (s : State) (port : Word) : (s.ioReadDone port).flags = s.flags := by
  unfold State.ioReadDone; split <;> rfl
@[simp] theorem State.ioReadDone_hl (s : State) (port : Word) : (s.ioReadDone port).hl = s.hl := by
  unfold State.ioReadDone; split <;> rfl
@[simp] theorem State.ioReadDone_bc (s : State) (port : Word) : (s.ioReadDone port).bc = s.bc := by
  unfold State.ioReadDone; split <;> rfl

@[simp] theorem State.ioReadDone_a (s : State) (port : Word) : (s.ioReadDone port).a = s.a := by
  unfold State.ioReadDone; split <;> rfl
@[simp] theorem State.ioReadDone_f (s : State) (port : Word) : (s.ioReadDone port).f = s.f := by
  unfold State.ioReadDone; split <;> rfl
@[simp] theorem State.ioReadDone_b (s : State) (port : Word) : (s.ioReadDone port).b = s.b := by
  unfold State.ioReadDone; split <;> rfl
@[simp] theorem State.ioReadDone_c (s : State) (port : Word) : (s.ioReadDone port).c = s.c := by
  unfold State.ioReadDone; split <;> rfl
@[simp] theorem State.ioReadDone_d (s : State) (port : Word) : (s.ioReadDone port).d = s.d := by
  unfold State.ioReadDone; split <;> rfl
@[simp] theorem State.ioReadDone_e (s : State) (port : Word) : (s.ioReadDone port).e = s.e := by
  unfold State.ioReadDone; split <;> rfl
@[simp] theorem State.ioReadDone_h (s : State) (port : Word) : (s.ioReadDone port).h = s.h := by
  unfold State.ioReadDone; split <;> rfl
@[simp] theorem State.ioReadDone_l (s : State) (port : Word) : (s.ioReadDone port).l = s.l := by
  unfold State.ioReadDone; split <;> rfl
@[simp] theorem State.ioReadDone_aAlt (s : State) (port : Word) : (s.ioReadDone port).aAlt = s.aAlt := by
  unfold State.ioReadDone; split <;> rfl
@[simp] theorem State.ioReadDone_fAlt (s : State) (port : Word) : (s.ioReadDone port).fAlt = s.fAlt := by
  unfold State.ioReadDone; split <;> rfl
@[simp] theorem State.ioReadDone_bAlt (s : State) (port : Word) : (s.ioReadDone port).bAlt = s.bAlt := by
  unfold State.ioReadDone; split <;> rfl
@[simp] theorem State.ioReadDone_cAlt (s : State) (port : Word) : (s.ioReadDone port).cAlt = s.cAlt := by
  unfold State.ioReadDone; split <;> rfl
@[simp] theorem State.ioReadDone_dAlt (s : State) (port : Word) : (s.ioReadDone port).dAlt = s.dAlt := by
  unfold State.ioReadDone; split <;> rfl
@[simp] theorem State.ioReadDone_eAlt (s : State) (port : Word) : (s.ioReadDone port).eAlt = s.eAlt := by
  unfold State.ioReadDone; split <;> rfl
@[simp] theorem State.ioReadDone_hAlt (s : State) (port : Word) : (s.ioReadDone port).hAlt = s.hAlt := by
  unfold State.ioReadDone; split <;> rfl
@[simp] theorem State.ioReadDone_lAlt (s : State) (port : Word) : (s.ioReadDone port).lAlt = s.lAlt := by
  unfold State.ioReadDone; split <;> rfl
@[simp] theorem State.ioReadDone_ix (s : State) (port : Word) : (s.ioReadDone port).ix = s.ix := by
  unfold State.ioReadDone; split <;> rfl
@[simp] theorem State.ioReadDone_iy (s : State) (port : Word) : (s.ioReadDone port).iy = s.iy := by
  unfold State.ioReadDone; split <;> rfl
@[simp] theorem State.ioReadDone_sp (s : State) (port : Word) : (s.ioReadDone port).sp = s.sp := by
  unfold State.ioReadDone; split <;> rfl
@[simp] theorem State.ioReadDone_pc (s : State) (port : Word) : (s.ioReadDone port).pc = s.pc := by
  unfold State.ioReadDone; split <;> rfl
@[simp] theorem State.ioReadDone_iReg (s : State) (port : Word) : (s.ioReadDone port).iReg = s.iReg := by
  unfold State.ioReadDone; split <;> rfl
@[simp] theorem State.ioReadDone_rReg (s : State) (port : Word) : (s.ioReadDone port).rReg = s.rReg := by
  unfold State.ioReadDone; split <;> rfl
@[simp] theorem State.ioReadDone_iff1 (s : State) (port : Word) : (s.ioReadDone port).iff1 = s.iff1 := by
  unfold State.ioReadDone; split <;> rfl
@[simp] theorem State.ioReadDone_iff2 (s : State) (port : Word) : (s.ioReadDone port).iff2 = s.iff2 := by
  unfold State.ioReadDone; split <;> rfl
@[simp] theorem State.ioReadDone_im (s : State) (port : Word) : (s.ioReadDone port).im = s.im := by
  unfold State.ioReadDone; split <;> rfl
@[simp] theorem State.ioReadDone_halted (s : State) (port : Word) : (s.ioReadDone port).halted = s.halted := by
  unfold State.ioReadDone; split <;> rfl
@[simp] theorem State.ioReadDone_nmiPending (s : State) (port : Word) : (s.ioReadDone port).nmiPending = s.nmiPending := by
  unfold State.ioReadDone; split <;> rfl
@[simp] theorem State.ioReadDone_mem (s : State) (port : Word) : (s.ioReadDone port).mem = s.mem := by
  unfold State.ioReadDone; split <;> rfl
@[simp] theorem State.ioReadDone_memMap (s : State) (port : Word) : (s.ioReadDone port).memMap = s.memMap := by
  unfold State.ioReadDone; split <;> rfl
@[simp] theorem State.ioReadDone_inputs (s : State) (port : Word) : (s.ioReadDone port).inputs = s.inputs := by
  unfold State.ioReadDone; split <;> rfl
@[simp] theorem State.ioReadDone_memIn (s : State) (port : Word) : (s.ioReadDone port).memIn = s.memIn := by
  unfold State.ioReadDone; split <;> rfl
@[simp] theorem State.ioReadDone_repeating (s : State) (port : Word) : (s.ioReadDone port).repeating = s.repeating := by
  unfold State.ioReadDone; split <;> rfl
@[simp] theorem State.ioReadDone_ioIn (s : State) (port : Word) : (s.ioReadDone port).ioIn = s.ioIn.tail := by
  unfold State.ioReadDone; split <;> simp_all
@[simp] theorem State.ioReadDone_trace (s : State) (port : Word) :
    (s.ioReadDone port).trace = .ioRead port (s.ioByte port) :: s.trace := by
  unfold State.ioReadDone State.ioByte; split <;> simp_all
@[simp] theorem State.ioReadDone_draws (s : State) (port : Word) :
    (s.ioReadDone port).draws = if s.ioIn.isEmpty then s.draws + 1 else s.draws := by
  unfold State.ioReadDone; split <;> simp_all

@[simp] theorem State.grantBus_a (s : State) (ws : List DmaAccess) : (s.grantBus ws).a = s.a := by
  unfold State.grantBus; simp only [State.emit]; split <;> rfl
@[simp] theorem State.grantBus_f (s : State) (ws : List DmaAccess) : (s.grantBus ws).f = s.f := by
  unfold State.grantBus; simp only [State.emit]; split <;> rfl
@[simp] theorem State.grantBus_b (s : State) (ws : List DmaAccess) : (s.grantBus ws).b = s.b := by
  unfold State.grantBus; simp only [State.emit]; split <;> rfl
@[simp] theorem State.grantBus_c (s : State) (ws : List DmaAccess) : (s.grantBus ws).c = s.c := by
  unfold State.grantBus; simp only [State.emit]; split <;> rfl
@[simp] theorem State.grantBus_d (s : State) (ws : List DmaAccess) : (s.grantBus ws).d = s.d := by
  unfold State.grantBus; simp only [State.emit]; split <;> rfl
@[simp] theorem State.grantBus_e (s : State) (ws : List DmaAccess) : (s.grantBus ws).e = s.e := by
  unfold State.grantBus; simp only [State.emit]; split <;> rfl
@[simp] theorem State.grantBus_h (s : State) (ws : List DmaAccess) : (s.grantBus ws).h = s.h := by
  unfold State.grantBus; simp only [State.emit]; split <;> rfl
@[simp] theorem State.grantBus_l (s : State) (ws : List DmaAccess) : (s.grantBus ws).l = s.l := by
  unfold State.grantBus; simp only [State.emit]; split <;> rfl
@[simp] theorem State.grantBus_aAlt (s : State) (ws : List DmaAccess) : (s.grantBus ws).aAlt = s.aAlt := by
  unfold State.grantBus; simp only [State.emit]; split <;> rfl
@[simp] theorem State.grantBus_fAlt (s : State) (ws : List DmaAccess) : (s.grantBus ws).fAlt = s.fAlt := by
  unfold State.grantBus; simp only [State.emit]; split <;> rfl
@[simp] theorem State.grantBus_bAlt (s : State) (ws : List DmaAccess) : (s.grantBus ws).bAlt = s.bAlt := by
  unfold State.grantBus; simp only [State.emit]; split <;> rfl
@[simp] theorem State.grantBus_cAlt (s : State) (ws : List DmaAccess) : (s.grantBus ws).cAlt = s.cAlt := by
  unfold State.grantBus; simp only [State.emit]; split <;> rfl
@[simp] theorem State.grantBus_dAlt (s : State) (ws : List DmaAccess) : (s.grantBus ws).dAlt = s.dAlt := by
  unfold State.grantBus; simp only [State.emit]; split <;> rfl
@[simp] theorem State.grantBus_eAlt (s : State) (ws : List DmaAccess) : (s.grantBus ws).eAlt = s.eAlt := by
  unfold State.grantBus; simp only [State.emit]; split <;> rfl
@[simp] theorem State.grantBus_hAlt (s : State) (ws : List DmaAccess) : (s.grantBus ws).hAlt = s.hAlt := by
  unfold State.grantBus; simp only [State.emit]; split <;> rfl
@[simp] theorem State.grantBus_lAlt (s : State) (ws : List DmaAccess) : (s.grantBus ws).lAlt = s.lAlt := by
  unfold State.grantBus; simp only [State.emit]; split <;> rfl
@[simp] theorem State.grantBus_ix (s : State) (ws : List DmaAccess) : (s.grantBus ws).ix = s.ix := by
  unfold State.grantBus; simp only [State.emit]; split <;> rfl
@[simp] theorem State.grantBus_iy (s : State) (ws : List DmaAccess) : (s.grantBus ws).iy = s.iy := by
  unfold State.grantBus; simp only [State.emit]; split <;> rfl
@[simp] theorem State.grantBus_sp (s : State) (ws : List DmaAccess) : (s.grantBus ws).sp = s.sp := by
  unfold State.grantBus; simp only [State.emit]; split <;> rfl
@[simp] theorem State.grantBus_pc (s : State) (ws : List DmaAccess) : (s.grantBus ws).pc = s.pc := by
  unfold State.grantBus; simp only [State.emit]; split <;> rfl
@[simp] theorem State.grantBus_iReg (s : State) (ws : List DmaAccess) : (s.grantBus ws).iReg = s.iReg := by
  unfold State.grantBus; simp only [State.emit]; split <;> rfl
@[simp] theorem State.grantBus_rReg (s : State) (ws : List DmaAccess) : (s.grantBus ws).rReg = s.rReg := by
  unfold State.grantBus; simp only [State.emit]; split <;> rfl
@[simp] theorem State.grantBus_iff1 (s : State) (ws : List DmaAccess) : (s.grantBus ws).iff1 = s.iff1 := by
  unfold State.grantBus; simp only [State.emit]; split <;> rfl
@[simp] theorem State.grantBus_iff2 (s : State) (ws : List DmaAccess) : (s.grantBus ws).iff2 = s.iff2 := by
  unfold State.grantBus; simp only [State.emit]; split <;> rfl
@[simp] theorem State.grantBus_im (s : State) (ws : List DmaAccess) : (s.grantBus ws).im = s.im := by
  unfold State.grantBus; simp only [State.emit]; split <;> rfl
@[simp] theorem State.grantBus_halted (s : State) (ws : List DmaAccess) : (s.grantBus ws).halted = s.halted := by
  unfold State.grantBus; simp only [State.emit]; split <;> rfl
@[simp] theorem State.grantBus_nmiPending (s : State) (ws : List DmaAccess) : (s.grantBus ws).nmiPending = s.nmiPending := by
  unfold State.grantBus; simp only [State.emit]; split <;> rfl
@[simp] theorem State.grantBus_memMap (s : State) (ws : List DmaAccess) : (s.grantBus ws).memMap = s.memMap := by
  unfold State.grantBus; simp only [State.emit]; split <;> rfl
@[simp] theorem State.grantBus_inputs (s : State) (ws : List DmaAccess) : (s.grantBus ws).inputs = s.inputs := by
  unfold State.grantBus; simp only [State.emit]; split <;> rfl
@[simp] theorem State.grantBus_ioIn (s : State) (ws : List DmaAccess) : (s.grantBus ws).ioIn = s.ioIn := by
  unfold State.grantBus; simp only [State.emit]; split <;> rfl
@[simp] theorem State.grantBus_memIn (s : State) (ws : List DmaAccess) : (s.grantBus ws).memIn = s.memIn := by
  unfold State.grantBus; simp only [State.emit]; split <;> rfl
@[simp] theorem State.grantBus_repeating (s : State) (ws : List DmaAccess) : (s.grantBus ws).repeating = s.repeating := by
  unfold State.grantBus; simp only [State.emit]; split <;> rfl
@[simp] theorem State.grantBus_draws (s : State) (ws : List DmaAccess) : (s.grantBus ws).draws = s.draws := by
  unfold State.grantBus; simp only [State.emit]; split <;> rfl
@[simp] theorem State.grantBus_mem (s : State) (ws : List DmaAccess) :
    (s.grantBus ws).mem = dmaAccesses s s.mem ws := by
  unfold State.grantBus; simp only [State.emit]; split <;> rfl

/-! The state an instruction executes in: reading its bytes leaves all but the input bytes, the counter and the trace. -/

@[simp] theorem readFrom_a (n : Nat) (a : Word) (s : State) : (readFrom n a s).a = s.a := by
  induction n generalizing a s <;> simp_all [readFrom]
@[simp] theorem readFrom_f (n : Nat) (a : Word) (s : State) : (readFrom n a s).f = s.f := by
  induction n generalizing a s <;> simp_all [readFrom]
@[simp] theorem readFrom_b (n : Nat) (a : Word) (s : State) : (readFrom n a s).b = s.b := by
  induction n generalizing a s <;> simp_all [readFrom]
@[simp] theorem readFrom_c (n : Nat) (a : Word) (s : State) : (readFrom n a s).c = s.c := by
  induction n generalizing a s <;> simp_all [readFrom]
@[simp] theorem readFrom_d (n : Nat) (a : Word) (s : State) : (readFrom n a s).d = s.d := by
  induction n generalizing a s <;> simp_all [readFrom]
@[simp] theorem readFrom_e (n : Nat) (a : Word) (s : State) : (readFrom n a s).e = s.e := by
  induction n generalizing a s <;> simp_all [readFrom]
@[simp] theorem readFrom_h (n : Nat) (a : Word) (s : State) : (readFrom n a s).h = s.h := by
  induction n generalizing a s <;> simp_all [readFrom]
@[simp] theorem readFrom_l (n : Nat) (a : Word) (s : State) : (readFrom n a s).l = s.l := by
  induction n generalizing a s <;> simp_all [readFrom]
@[simp] theorem readFrom_aAlt (n : Nat) (a : Word) (s : State) : (readFrom n a s).aAlt = s.aAlt := by
  induction n generalizing a s <;> simp_all [readFrom]
@[simp] theorem readFrom_fAlt (n : Nat) (a : Word) (s : State) : (readFrom n a s).fAlt = s.fAlt := by
  induction n generalizing a s <;> simp_all [readFrom]
@[simp] theorem readFrom_bAlt (n : Nat) (a : Word) (s : State) : (readFrom n a s).bAlt = s.bAlt := by
  induction n generalizing a s <;> simp_all [readFrom]
@[simp] theorem readFrom_cAlt (n : Nat) (a : Word) (s : State) : (readFrom n a s).cAlt = s.cAlt := by
  induction n generalizing a s <;> simp_all [readFrom]
@[simp] theorem readFrom_dAlt (n : Nat) (a : Word) (s : State) : (readFrom n a s).dAlt = s.dAlt := by
  induction n generalizing a s <;> simp_all [readFrom]
@[simp] theorem readFrom_eAlt (n : Nat) (a : Word) (s : State) : (readFrom n a s).eAlt = s.eAlt := by
  induction n generalizing a s <;> simp_all [readFrom]
@[simp] theorem readFrom_hAlt (n : Nat) (a : Word) (s : State) : (readFrom n a s).hAlt = s.hAlt := by
  induction n generalizing a s <;> simp_all [readFrom]
@[simp] theorem readFrom_lAlt (n : Nat) (a : Word) (s : State) : (readFrom n a s).lAlt = s.lAlt := by
  induction n generalizing a s <;> simp_all [readFrom]
@[simp] theorem readFrom_ix (n : Nat) (a : Word) (s : State) : (readFrom n a s).ix = s.ix := by
  induction n generalizing a s <;> simp_all [readFrom]
@[simp] theorem readFrom_iy (n : Nat) (a : Word) (s : State) : (readFrom n a s).iy = s.iy := by
  induction n generalizing a s <;> simp_all [readFrom]
@[simp] theorem readFrom_sp (n : Nat) (a : Word) (s : State) : (readFrom n a s).sp = s.sp := by
  induction n generalizing a s <;> simp_all [readFrom]
@[simp] theorem readFrom_pc (n : Nat) (a : Word) (s : State) : (readFrom n a s).pc = s.pc := by
  induction n generalizing a s <;> simp_all [readFrom]
@[simp] theorem readFrom_iReg (n : Nat) (a : Word) (s : State) : (readFrom n a s).iReg = s.iReg := by
  induction n generalizing a s <;> simp_all [readFrom]
@[simp] theorem readFrom_rReg (n : Nat) (a : Word) (s : State) : (readFrom n a s).rReg = s.rReg := by
  induction n generalizing a s <;> simp_all [readFrom]
@[simp] theorem readFrom_iff1 (n : Nat) (a : Word) (s : State) : (readFrom n a s).iff1 = s.iff1 := by
  induction n generalizing a s <;> simp_all [readFrom]
@[simp] theorem readFrom_iff2 (n : Nat) (a : Word) (s : State) : (readFrom n a s).iff2 = s.iff2 := by
  induction n generalizing a s <;> simp_all [readFrom]
@[simp] theorem readFrom_im (n : Nat) (a : Word) (s : State) : (readFrom n a s).im = s.im := by
  induction n generalizing a s <;> simp_all [readFrom]
@[simp] theorem readFrom_halted (n : Nat) (a : Word) (s : State) : (readFrom n a s).halted = s.halted := by
  induction n generalizing a s <;> simp_all [readFrom]
@[simp] theorem readFrom_nmiPending (n : Nat) (a : Word) (s : State) : (readFrom n a s).nmiPending = s.nmiPending := by
  induction n generalizing a s <;> simp_all [readFrom]
@[simp] theorem readFrom_mem (n : Nat) (a : Word) (s : State) : (readFrom n a s).mem = s.mem := by
  induction n generalizing a s <;> simp_all [readFrom]
@[simp] theorem readFrom_memMap (n : Nat) (a : Word) (s : State) : (readFrom n a s).memMap = s.memMap := by
  induction n generalizing a s <;> simp_all [readFrom]
@[simp] theorem readFrom_inputs (n : Nat) (a : Word) (s : State) : (readFrom n a s).inputs = s.inputs := by
  induction n generalizing a s <;> simp_all [readFrom]
@[simp] theorem readFrom_ioIn (n : Nat) (a : Word) (s : State) : (readFrom n a s).ioIn = s.ioIn := by
  induction n generalizing a s <;> simp_all [readFrom]
@[simp] theorem readFrom_repeating (n : Nat) (a : Word) (s : State) : (readFrom n a s).repeating = s.repeating := by
  induction n generalizing a s <;> simp_all [readFrom]

@[simp] theorem State.fetched_a (s : State) (n : Nat) : (s.fetched n).a = s.a := readFrom_a _ _ _
@[simp] theorem State.fetched_f (s : State) (n : Nat) : (s.fetched n).f = s.f := readFrom_f _ _ _
@[simp] theorem State.fetched_b (s : State) (n : Nat) : (s.fetched n).b = s.b := readFrom_b _ _ _
@[simp] theorem State.fetched_c (s : State) (n : Nat) : (s.fetched n).c = s.c := readFrom_c _ _ _
@[simp] theorem State.fetched_d (s : State) (n : Nat) : (s.fetched n).d = s.d := readFrom_d _ _ _
@[simp] theorem State.fetched_e (s : State) (n : Nat) : (s.fetched n).e = s.e := readFrom_e _ _ _
@[simp] theorem State.fetched_h (s : State) (n : Nat) : (s.fetched n).h = s.h := readFrom_h _ _ _
@[simp] theorem State.fetched_l (s : State) (n : Nat) : (s.fetched n).l = s.l := readFrom_l _ _ _
@[simp] theorem State.fetched_aAlt (s : State) (n : Nat) : (s.fetched n).aAlt = s.aAlt := readFrom_aAlt _ _ _
@[simp] theorem State.fetched_fAlt (s : State) (n : Nat) : (s.fetched n).fAlt = s.fAlt := readFrom_fAlt _ _ _
@[simp] theorem State.fetched_bAlt (s : State) (n : Nat) : (s.fetched n).bAlt = s.bAlt := readFrom_bAlt _ _ _
@[simp] theorem State.fetched_cAlt (s : State) (n : Nat) : (s.fetched n).cAlt = s.cAlt := readFrom_cAlt _ _ _
@[simp] theorem State.fetched_dAlt (s : State) (n : Nat) : (s.fetched n).dAlt = s.dAlt := readFrom_dAlt _ _ _
@[simp] theorem State.fetched_eAlt (s : State) (n : Nat) : (s.fetched n).eAlt = s.eAlt := readFrom_eAlt _ _ _
@[simp] theorem State.fetched_hAlt (s : State) (n : Nat) : (s.fetched n).hAlt = s.hAlt := readFrom_hAlt _ _ _
@[simp] theorem State.fetched_lAlt (s : State) (n : Nat) : (s.fetched n).lAlt = s.lAlt := readFrom_lAlt _ _ _
@[simp] theorem State.fetched_ix (s : State) (n : Nat) : (s.fetched n).ix = s.ix := readFrom_ix _ _ _
@[simp] theorem State.fetched_iy (s : State) (n : Nat) : (s.fetched n).iy = s.iy := readFrom_iy _ _ _
@[simp] theorem State.fetched_sp (s : State) (n : Nat) : (s.fetched n).sp = s.sp := readFrom_sp _ _ _
@[simp] theorem State.fetched_pc (s : State) (n : Nat) : (s.fetched n).pc = s.pc := readFrom_pc _ _ _
@[simp] theorem State.fetched_iReg (s : State) (n : Nat) : (s.fetched n).iReg = s.iReg := readFrom_iReg _ _ _
@[simp] theorem State.fetched_rReg (s : State) (n : Nat) : (s.fetched n).rReg = s.rReg := readFrom_rReg _ _ _
@[simp] theorem State.fetched_iff1 (s : State) (n : Nat) : (s.fetched n).iff1 = s.iff1 := readFrom_iff1 _ _ _
@[simp] theorem State.fetched_iff2 (s : State) (n : Nat) : (s.fetched n).iff2 = s.iff2 := readFrom_iff2 _ _ _
@[simp] theorem State.fetched_im (s : State) (n : Nat) : (s.fetched n).im = s.im := readFrom_im _ _ _
@[simp] theorem State.fetched_halted (s : State) (n : Nat) : (s.fetched n).halted = s.halted := readFrom_halted _ _ _
@[simp] theorem State.fetched_nmiPending (s : State) (n : Nat) : (s.fetched n).nmiPending = s.nmiPending := readFrom_nmiPending _ _ _
@[simp] theorem State.fetched_mem (s : State) (n : Nat) : (s.fetched n).mem = s.mem := readFrom_mem _ _ _
@[simp] theorem State.fetched_memMap (s : State) (n : Nat) : (s.fetched n).memMap = s.memMap := readFrom_memMap _ _ _
@[simp] theorem State.fetched_inputs (s : State) (n : Nat) : (s.fetched n).inputs = s.inputs := readFrom_inputs _ _ _
@[simp] theorem State.fetched_ioIn (s : State) (n : Nat) : (s.fetched n).ioIn = s.ioIn := readFrom_ioIn _ _ _
@[simp] theorem State.fetched_repeating (s : State) (n : Nat) : (s.fetched n).repeating = false := rfl
@[simp] theorem State.fetched_memIn (s : State) (n : Nat) : (s.fetched n).memIn = (readFrom n s.pc s).memIn := rfl
@[simp] theorem State.fetched_draws (s : State) (n : Nat) : (s.fetched n).draws = (readFrom n s.pc s).draws + 1 := rfl

end Sys2Proof.Machine
end

