-- ==== Sys2Proof/Laws/Memory.lean ====
section
/-! SUPPORT. Memory: what a read after a write gives, and that every memory operation keeps the canonical form. -/

namespace Sys2Proof.Machine

theorem memRead_memErase (m : Memory) (a b : Nat) :
    memRead (memErase m a) b = if b = a then Config.unlistedByte else memRead m b := by
  induction m with
  | nil => simp [memErase, memRead]
  | cons cell rest ih =>
    obtain ⟨k, w⟩ := cell
    simp only [memErase, memRead]
    split <;> split <;> simp_all [memRead]; grind

theorem memRead_memInsert (m : Memory) (a b : Nat) (v : Byte) :
    memRead (memInsert m a v) b = if b = a then v else memRead m b := by
  induction m with
  | nil => simp only [memInsert, memRead]; grind
  | cons cell rest ih =>
    obtain ⟨k, w⟩ := cell
    simp only [memInsert]
    split
    · simp only [memRead]; grind
    · split <;> simp only [memRead, ih] <;> grind

/-- A read gives what the last write to the address gave it, and every other address reads as before. -/
theorem memRead_memWrite (m : Memory) (a b : Nat) (v : Byte) :
    memRead (memWrite m a v) b = if b = a then v else memRead m b := by
  unfold memWrite
  split
  · rename_i h; rw [memRead_memErase, h]
  · exact memRead_memInsert m a b v

/-- The canonical form above a bound, in one recursive condition. -/
def Memory.wfFrom : Option Nat → Memory → Prop
  | _, [] => True
  | lo, (k, v) :: rest =>
    (∀ p, lo = some p → p < k) ∧ k < 65536 ∧ v ≠ Config.unlistedByte ∧ Memory.wfFrom (some k) rest

theorem Memory.wfFrom_iff (lo : Option Nat) (m : Memory) :
    Memory.wfFrom lo m ↔
      (risingFrom lo m && m.all fun cell => decide (cell.1 < 65536) && cell.2 != Config.unlistedByte) = true := by
  induction m generalizing lo with
  | nil => simp [Memory.wfFrom, risingFrom]
  | cons cell rest ih =>
    obtain ⟨k, w⟩ := cell
    simp only [Memory.wfFrom, ih, risingFrom, List.all_cons]
    cases lo <;> simp <;> tauto

theorem Memory.wf_iff (m : Memory) : m.wf = true ↔ Memory.wfFrom none m :=
  (Memory.wfFrom_iff none m).symm

theorem Memory.wfFrom_mono {m : Memory} {lo lo' : Option Nat} (h : Memory.wfFrom lo m)
    (hl : ∀ p, lo' = some p → ∃ q, lo = some q ∧ p ≤ q) : Memory.wfFrom lo' m := by
  cases m with
  | nil => trivial
  | cons cell rest =>
    obtain ⟨k, w⟩ := cell
    obtain ⟨h1, h2⟩ := h
    refine ⟨fun p hp => ?_, h2⟩
    obtain ⟨q, hq, hle⟩ := hl p hp
    exact lt_of_le_of_lt hle (h1 q hq)

theorem Memory.wfFrom_memErase {m : Memory} {lo : Option Nat} (a : Nat) (h : Memory.wfFrom lo m) :
    Memory.wfFrom lo (memErase m a) := by
  induction m generalizing lo with
  | nil => trivial
  | cons cell rest ih =>
    obtain ⟨k, w⟩ := cell
    obtain ⟨h1, h2, h3, h4⟩ := h
    simp only [memErase]
    split
    · exact Memory.wfFrom_mono (ih h4) fun p hp => ⟨k, rfl, (h1 p hp).le⟩
    · exact ⟨h1, h2, h3, ih h4⟩

theorem Memory.wfFrom_memInsert {m : Memory} {lo : Option Nat} {a : Nat} {v : Byte} (h : Memory.wfFrom lo m)
    (hlo : ∀ p, lo = some p → p < a) (ha : a < 65536) (hv : v ≠ Config.unlistedByte) :
    Memory.wfFrom lo (memInsert m a v) := by
  induction m generalizing lo with
  | nil => exact ⟨hlo, ha, hv, trivial⟩
  | cons cell rest ih =>
    obtain ⟨k, w⟩ := cell
    obtain ⟨h1, h2, h3, h4⟩ := h
    simp only [memInsert]
    split
    · subst_vars; exact ⟨h1, h2, hv, h4⟩
    · split
      · refine ⟨hlo, ha, hv, fun p hp => ?_, h2, h3, h4⟩
        cases hp; assumption
      · refine ⟨h1, h2, h3, ih h4 fun p hp => ?_⟩
        cases hp; omega

/-- A write keeps the canonical form. -/
theorem Memory.wf_memWrite {m : Memory} {a : Nat} {v : Byte} (h : m.wf = true) (ha : a < 65536) :
    (memWrite m a v).wf = true := by
  rw [Memory.wf_iff] at h ⊢
  unfold memWrite
  split
  · exact Memory.wfFrom_memErase a h
  · exact Memory.wfFrom_memInsert h (by simp) ha ‹_›

/-- A store keeps the canonical form. -/
theorem State.wf_memAfter {s : State} {a : Word} {v : Byte} (h : s.mem.wf = true) : (s.memAfter a v).wf = true := by
  unfold State.memAfter
  split
  · exact Memory.wf_memWrite h a.isLt
  · exact h

/-- A byte is written and memory keeps the canonical form. -/
theorem State.wf_writeByte {s : State} {a : Word} {v : Byte} (h : s.mem.wf = true) : (s.writeByte a v).mem.wf = true :=
  State.wf_memAfter h

theorem State.wf_writeWord {s : State} {a v : Word} (h : s.mem.wf = true) : (s.writeWord a v).mem.wf = true :=
  State.wf_writeByte (State.wf_writeByte h)

theorem State.wf_push16 {s : State} {v : Word} (h : s.mem.wf = true) : (s.push16 v).mem.wf = true := by
  rw [State.push16_mem]
  exact State.wf_writeByte (State.wf_writeByte h)

theorem State.wf_storeTop {s : State} {v : Word} (h : s.mem.wf = true) : (s.storeTop v).mem.wf = true := by
  rw [State.storeTop_mem]
  exact State.wf_writeWord (by simpa using h)

theorem State.wf_ackEnter {s : State} {target : Word} (h : s.mem.wf = true) : (s.ackEnter target).mem.wf = true := by
  simp only [State.ackEnter, State.setPC_mem, State.setRepeating_mem, State.setHalted_mem]
  exact State.wf_push16 h

/-- The other master's accesses keep the canonical form. -/
theorem Memory.wf_dmaAccesses {s : State} {m : Memory} {ws : List DmaAccess} (h : m.wf = true) :
    (dmaAccesses s m ws).wf = true := by
  induction ws generalizing m with
  | nil => exact h
  | cons x rest ih =>
    cases x with
    | memWrite a v =>
      refine ih ?_
      split
      · exact Memory.wf_memWrite h a.isLt
      · exact h
    | memRead a => exact ih h
    | ioRead p => exact ih h
    | ioWrite p v => exact ih h

/-- Placing bytes keeps the canonical form. -/
theorem Memory.wf_placeBytes {m : Memory} {a : Word} {bs : List Byte} (h : m.wf = true) :
    (placeBytes m a bs).wf = true := by
  induction bs generalizing m a with
  | nil => exact h
  | cons v rest ih => exact ih (Memory.wf_memWrite h a.isLt)

theorem succ_ne_self (a : Word) : a + 1 ≠ a := by
  intro h
  simp at h

/-- Every address is backed in one of four ways, and the two tests follow it. -/
theorem State.holds_iff (s : State) (a : Word) : s.holds a = true ↔ s.backing a = .ram ∨ s.backing a = .rom := by
  unfold State.holds
  cases s.backing a <;> simp

theorem State.keeps_iff (s : State) (a : Word) : s.keeps a = true ↔ s.backing a = .ram := by
  unfold State.keeps
  cases s.backing a <;> simp

theorem State.holds_of_keeps {s : State} {a : Word} (h : s.keeps a = true) : s.holds a = true :=
  (s.holds_iff a).mpr (.inl ((s.keeps_iff a).mp h))

/-- A read of RAM or ROM returns what memory holds. -/
theorem State.readByte_of_holds {s : State} {a : Word} (h : s.holds a = true) : s.readByte a = s.cell a := by
  simp only [State.readByte, h, if_true]

/-- A read of an address without storage returns the next input byte. -/
theorem State.readByte_of_memIn {s : State} {a : Word} {v : Byte} {rest : List Byte} (h : s.holds a = false)
    (hv : s.memIn = v :: rest) : s.readByte a = v := by
  simp only [State.readByte, h, hv, Bool.false_eq_true, if_false]

theorem State.holds_of_memMap {s t : State} (h : t.memMap = s.memMap) (a : Word) : t.holds a = s.holds a := by
  simp only [State.holds, State.backing, h]

theorem State.keeps_of_memMap {s t : State} (h : t.memMap = s.memMap) (a : Word) : t.keeps a = s.keeps a := by
  simp only [State.keeps, State.backing, h]

/-- What a read returns depends on memory, the map, the queue and the counter only. -/
theorem State.readByte_congr {s t : State} (h1 : t.mem = s.mem) (h2 : t.memMap = s.memMap) (h3 : t.memIn = s.memIn)
    (h4 : t.draws = s.draws) (a : Word) : t.readByte a = s.readByte a := by
  have h := State.holds_of_memMap h2 a
  unfold State.readByte State.cell
  rw [h, h1, h3, h4]

theorem State.readWord_congr {s t : State} (h1 : t.mem = s.mem) (h2 : t.memMap = s.memMap) (h3 : t.memIn = s.memIn)
    (h4 : t.draws = s.draws) (a : Word) : t.readWord a = s.readWord a := by
  have h := State.holds_of_memMap h2 a
  unfold State.readWord
  rw [State.readByte_congr h1 h2 h3 h4 a, State.readByte_congr (s := s.readDone a) (t := t.readDone a) h1 h2
    (by simp [h, h3]) (by simp [h, h3, h4])]

theorem State.readGives (s : State) (a : Word) : s.ReadGives a := by
  refine ⟨fun h => State.readByte_of_holds ((s.holds_iff a).mpr h), fun h v rest hv => State.readByte_of_memIn ?_ hv⟩
  unfold State.holds
  rcases h with h | h <;> rw [h]

theorem State.cell_of_mem {s t : State} (h : t.mem = s.mem) (a : Word) : t.cell a = s.cell a := by
  simp only [State.cell, h]

/-- RAM keeps the byte written, and every other byte of memory stays. -/
@[simp] theorem State.cell_writeByte (s : State) (a : Word) (v : Byte) (b : Word) :
    (s.writeByte a v).cell b = if s.keeps b = true ∧ b = a then v else s.cell b := by
  simp only [State.cell, State.writeByte, State.memAfter]
  by_cases h : b = a
  · subst h
    cases s.keeps b <;> simp [memRead_memWrite]
  · have h' : ¬ b.toNat = a.toNat := fun e => h (BitVec.eq_of_toNat_eq e)
    cases s.keeps a <;> simp [memRead_memWrite, h, h']

@[simp] theorem State.cell_writeWord (s : State) (a v b : Word) :
    (s.writeWord a v).cell b =
      if s.keeps b = true ∧ b = a + 1 then hiByte v else if s.keeps b = true ∧ b = a then loByte v else s.cell b := by
  simp only [State.writeWord, State.cell_writeByte, State.writeByte_keeps]

@[simp] theorem State.cell_push16 (s : State) (v b : Word) :
    (s.push16 v).cell b =
      if s.keeps b = true ∧ b = s.sp - 2 then loByte v
      else if s.keeps b = true ∧ b = s.sp - 1 then hiByte v
      else s.cell b := by
  have h : (s.push16 v).cell b = ((s.writeByte (s.sp - 1) (hiByte v)).writeByte (s.sp - 2) (loByte v)).cell b := rfl
  rw [h]
  simp only [State.cell_writeByte, State.writeByte_keeps]

@[simp] theorem State.cell_storeTop (s : State) (v b : Word) :
    (s.storeTop v).cell b =
      if s.keeps b = true ∧ b = s.sp + 1 then hiByte v else if s.keeps b = true ∧ b = s.sp then loByte v else s.cell b := by
  simp only [State.storeTop, State.cell_writeWord, State.readWordDone_keeps, State.readWordDone_cell]

/-- A word written to RAM is read back. -/
theorem State.readWord_writeWord {s : State} {a : Word} (v : Word) (h1 : s.keeps a = true) (h2 : s.keeps (a + 1) = true) :
    (s.writeWord a v).readWord a = v := by
  have e1 : (s.writeWord a v).readByte a = loByte v := by
    rw [State.readByte_of_holds (by simpa using State.holds_of_keeps h1)]
    simp [h1]
  have e2 : ((s.writeWord a v).readDone a).readByte (a + 1) = hiByte v := by
    rw [State.readByte_of_holds (by simpa using State.holds_of_keeps h2)]
    have h2' : s.keeps (a + 1#16) = true := h2
    simp [h2']
  rw [State.readWord, e1, e2, word16_hiByte_loByte]

end Sys2Proof.Machine
end

