-- ==== Sys2Proof/Laws/Operations.lean ====
section
/-! SUPPORT. For each shared operation, one lemma that says all it does: what it leaves unchanged, what it writes, and which
transactions it makes. -/

namespace Sys2Proof.Machine

/-- An instruction that is an operation followed by `advance` completes, when the operation leaves PC. -/
theorem completes_of_advance {i : Instr} {bytes : List Byte} {s t : State} {changed : List Loc} {stored : List Word}
    {post : State → Prop} (n : Nat) (henc : i.wellFormed = true → encode i = bytes) (hx : exec i s = .next (t.advance n))
    (hn : n = bytes.length) (hu : Unchanged changed s t) (hpc : Loc.pc ∉ changed) (hm : MemUnchanged stored s t)
    (hp : post (t.advance n)) : Completes i bytes s changed stored post := by
  have hpc' : t.pc = s.pc := hu .pc hpc
  refine ⟨henc, _, hx, fun x hx => ?_, fun a ha => ?_, ?_, hp⟩
  · have := hu x (fun h => hx (List.mem_cons_of_mem _ h))
    cases x <;> simp_all [Loc.Same]
  · have := hm a ha
    simpa using this
  · simp [hpc', hn]

theorem Unchanged.refl (changed : List Loc) (s : State) : Unchanged changed s s := by
  intro x _
  cases x <;> rfl

theorem MemUnchanged.refl (stored : List Word) (s : State) : MemUnchanged stored s s := fun _ _ => rfl

theorem Unchanged.mono {ch ch' : List Loc} {s t : State} (h : Unchanged ch s t) (hs : ch ⊆ ch') : Unchanged ch' s t :=
  fun x hx => h x fun hm => hx (hs hm)

theorem Unchanged.trans {ch : List Loc} {s t u : State} (h : Unchanged ch s t) (k : Unchanged ch t u) :
    Unchanged ch s u := by
  intro x hx
  have h1 := h x hx
  have h2 := k x hx
  cases x <;> simp_all [Loc.Same]

/-! Transactions: those of one access, and of one operation after another. -/

@[simp] theorem lastWrite_nil (a : Word) : lastWrite a [] = none := rfl

theorem lastWrite_append (a : Word) (e1 e2 : List BusEvent) :
    lastWrite a (e1 ++ e2) = (lastWrite a e2).or (lastWrite a e1) := by
  induction e1 with
  | nil => simp
  | cons ev rest ih => cases ev <;> simp [lastWrite, ih, Option.or_assoc]

theorem BusEvent.takesMemInput_of_memMap {s t : State} (h : t.memMap = s.memMap) :
    BusEvent.takesMemInput t = BusEvent.takesMemInput s := by
  funext ev
  cases ev <;> simp [BusEvent.takesMemInput, State.holds_of_memMap h]

theorem Transacts.refl (s : State) : Transacts [] s s := ⟨rfl, rfl, rfl, fun a => by simp⟩

/-- The transactions of one part and then of the next are those of both. -/
theorem Transacts.append {e1 e2 : List BusEvent} {s t u : State} (h : Transacts e1 s t) (k : Transacts e2 t u)
    (hm : t.memMap = s.memMap) : Transacts (e1 ++ e2) s u := by
  obtain ⟨h1, h2, h3, h4⟩ := h
  obtain ⟨k1, k2, k3, k4⟩ := k
  refine ⟨?_, ?_, ?_, fun a => ?_⟩
  · rw [k1, h1, List.reverse_append, List.append_assoc]
  · rw [k2, h2, List.drop_drop, List.countP_append, BusEvent.takesMemInput_of_memMap hm]
  · rw [k3, h3, List.drop_drop, List.countP_append]
  · rw [k4, h4, State.keeps_of_memMap hm, lastWrite_append]
    cases s.keeps a <;> cases lastWrite a e2 <;> simp

/-- A part that makes no transaction adds none. -/
theorem Transacts.congr {evs : List BusEvent} {s t u : State} (h : Transacts evs s t) (h1 : u.trace = t.trace)
    (h2 : u.memIn = t.memIn) (h3 : u.ioIn = t.ioIn) (h4 : u.mem = t.mem) : Transacts evs s u :=
  ⟨h1.trans h.1, h2.trans h.2.1, h3.trans h.2.2.1, fun a => (State.cell_of_mem h4 a).trans (h.2.2.2 a)⟩

/-- Nothing is transacted where the trace, the queues and memory stay. -/
theorem Transacts.none {s t : State} (h1 : t.trace = s.trace) (h2 : t.memIn = s.memIn) (h3 : t.ioIn = s.ioIn)
    (h4 : t.mem = s.mem) : Transacts [] s t := (Transacts.refl s).congr h1 h2 h3 h4

/-- Parts that agree but for the trace, the queues and memory see the same transactions. -/
theorem Transacts.of_start {evs : List BusEvent} {s s' t : State} (h : Transacts evs s' t) (h0 : s'.memMap = s.memMap)
    (h1 : s'.trace = s.trace) (h2 : s'.memIn = s.memIn) (h3 : s'.ioIn = s.ioIn) (h4 : s'.mem = s.mem) :
    Transacts evs s t := by
  obtain ⟨k1, k2, k3, k4⟩ := h
  refine ⟨by rw [k1, h1], by rw [k2, h2, BusEvent.takesMemInput_of_memMap h0], by rw [k3, h3], fun a => ?_⟩
  rw [k4, State.keeps_of_memMap h0, State.cell_of_mem h4]

theorem State.readDone_transacts (s : State) (a : Word) : Transacts (s.byteRead a) s (s.readDone a) := by
  refine ⟨rfl, ?_, rfl, fun b => by simp [State.byteRead, lastWrite]⟩
  cases h : s.holds a <;> simp [State.byteRead, BusEvent.takesMemInput, h]

theorem State.readWordDone_transacts (s : State) (a : Word) : Transacts (s.wordRead a) s (s.readWordDone a) :=
  (s.readDone_transacts a).append ((s.readDone a).readDone_transacts (a + 1)) rfl

theorem State.writeByte_transacts (s : State) (a : Word) (v : Byte) : Transacts [.memWrite a v] s (s.writeByte a v) := by
  refine ⟨rfl, rfl, rfl, fun b => ?_⟩
  by_cases h : a = b
  · cases hk : s.keeps b <;> simp [lastWrite, h, hk]
  · simp [lastWrite, h, Ne.symm h]

theorem State.emit_transacts (s : State) (ev : BusEvent) (h1 : ev.takesMemInput s = false) (h2 : ev.takesIoInput = false)
    (h3 : ∀ a, lastWrite a [ev] = .none) : Transacts [ev] s (s.emit ev) :=
  ⟨rfl, by simp [h1], by simp [h2], fun a => by simp [h3 a]⟩

theorem State.ioReadDone_transacts (s : State) (port : Word) :
    Transacts [.ioRead port (s.ioByte port)] s (s.ioReadDone port) :=
  ⟨by simp, by simp [BusEvent.takesMemInput], by simp [BusEvent.takesIoInput], fun a => by simp [lastWrite]⟩

theorem State.ioByte_portGives (s : State) (port : Word) : PortGives s (s.ioByte port) := by
  intro w rest h
  simp [State.ioByte, h]

theorem State.ioWrite_transacts (s : State) (port : Word) (v : Byte) : Transacts [.ioWrite port v] s (s.ioWrite port v) :=
  s.emit_transacts _ rfl rfl fun _ => rfl

theorem State.accAdd_spec (s : State) (src : Byte) (cin : Bool) : let t := s.accAdd src cin
    Unchanged [.a, .f, .draws] s t ∧ MemUnchanged [] s t ∧
      t.a = (add8 s.a src cin).r ∧
      t.flags = arithFlags (add8 s.a src cin) false := by
  intro t
  refine ⟨fun x hx => ?_, fun a ha => ?_, ?_, ?_⟩
  · cases x <;> simp_all [Loc.Same, t, State.accAdd]
  · simp at ha
    simp [t, State.accAdd]
  · simp [t, State.accAdd]
  · simp [t, State.accAdd]

theorem State.accSub_spec (s : State) (src : Byte) (cin : Bool) : let t := s.accSub src cin
    Unchanged [.a, .f, .draws] s t ∧ MemUnchanged [] s t ∧
      t.a = (sub8 s.a src cin).r ∧
      t.flags = arithFlags (sub8 s.a src cin) true := by
  intro t
  refine ⟨fun x hx => ?_, fun a ha => ?_, ?_, ?_⟩
  · cases x <;> simp_all [Loc.Same, t, State.accSub]
  · simp at ha
    simp [t, State.accSub]
  · simp [t, State.accSub]
  · simp [t, State.accSub]

theorem State.accCompare_spec (s : State) (src : Byte) : let t := s.accCompare src
    Unchanged [.f, .draws] s t ∧ MemUnchanged [] s t ∧
      t.flags = arithFlags (sub8 s.a src false) true := by
  intro t
  refine ⟨fun x hx => ?_, fun a ha => ?_, ?_⟩
  · cases x <;> simp_all [Loc.Same, t, State.accCompare]
  · simp at ha
    simp [t, State.accCompare]
  · simp [t, State.accCompare]

theorem State.accAnd_spec (s : State) (src : Byte) : let t := s.accAnd src
    Unchanged [.a, .f, .draws] s t ∧ MemUnchanged [] s t ∧
      t.a = s.a &&& src ∧
      t.flags = logicFlags (s.a &&& src) true := by
  intro t
  refine ⟨fun x hx => ?_, fun a ha => ?_, ?_, ?_⟩
  · cases x <;> simp_all [Loc.Same, t, State.accAnd]
  · simp at ha
    simp [t, State.accAnd]
  · simp [t, State.accAnd]
  · simp [t, State.accAnd]

theorem State.accXor_spec (s : State) (src : Byte) : let t := s.accXor src
    Unchanged [.a, .f, .draws] s t ∧ MemUnchanged [] s t ∧
      t.a = s.a ^^^ src ∧
      t.flags = logicFlags (s.a ^^^ src) false := by
  intro t
  refine ⟨fun x hx => ?_, fun a ha => ?_, ?_, ?_⟩
  · cases x <;> simp_all [Loc.Same, t, State.accXor]
  · simp at ha
    simp [t, State.accXor]
  · simp [t, State.accXor]
  · simp [t, State.accXor]

theorem State.accOr_spec (s : State) (src : Byte) : let t := s.accOr src
    Unchanged [.a, .f, .draws] s t ∧ MemUnchanged [] s t ∧
      t.a = s.a ||| src ∧
      t.flags = logicFlags (s.a ||| src) false := by
  intro t
  refine ⟨fun x hx => ?_, fun a ha => ?_, ?_, ?_⟩
  · cases x <;> simp_all [Loc.Same, t, State.accOr]
  · simp at ha
    simp [t, State.accOr]
  · simp [t, State.accOr]
  · simp [t, State.accOr]

theorem State.incReg_spec (s : State) (r : Reg8) : let t := s.incReg r
    Unchanged [.ofReg8 r, .f, .draws] s t ∧ MemUnchanged [] s t ∧
      t.r8 r = (add8 (s.r8 r) 1#8 false).r ∧
      t.flags = s.incFlags (s.r8 r) := by
  intro t
  refine ⟨fun x hx => ?_, fun a ha => ?_, ?_, ?_⟩
  · cases r <;> cases x <;> simp_all [Loc.Same, Loc.ofReg8, t, State.incReg]
  · simp at ha
    simp [t, State.incReg]
  · cases r <;> rfl
  · simp [t, State.incReg]

theorem State.decReg_spec (s : State) (r : Reg8) : let t := s.decReg r
    Unchanged [.ofReg8 r, .f, .draws] s t ∧ MemUnchanged [] s t ∧
      t.r8 r = (sub8 (s.r8 r) 1#8 false).r ∧
      t.flags = s.decFlags (s.r8 r) := by
  intro t
  refine ⟨fun x hx => ?_, fun a ha => ?_, ?_, ?_⟩
  · cases r <;> cases x <;> simp_all [Loc.Same, Loc.ofReg8, t, State.decReg]
  · simp at ha
    simp [t, State.decReg]
  · cases r <;> rfl
  · simp [t, State.decReg]

theorem State.incMem_spec (s : State) (a : Word) : let t := s.incMem a
    Unchanged [.f, .memIn, .draws, .trace] s t ∧ MemUnchanged [a] s t ∧
      Transacts (s.byteRead a ++ [.memWrite a (add8 (s.readByte a) 1#8 false).r]) s t ∧
      t.flags = s.incFlags (s.readByte a) := by
  intro t
  refine ⟨fun x hx => ?_, fun a ha => ?_, ?_, ?_⟩
  · cases x <;> simp_all [Loc.Same, t, State.incMem]
  · simp at ha
    simp [t, State.incMem, ha]
  · exact ((s.readDone_transacts a).append (State.writeByte_transacts _ a _) rfl).congr rfl rfl rfl rfl
  · simp [t, State.incMem]

theorem State.decMem_spec (s : State) (a : Word) : let t := s.decMem a
    Unchanged [.f, .memIn, .draws, .trace] s t ∧ MemUnchanged [a] s t ∧
      Transacts (s.byteRead a ++ [.memWrite a (sub8 (s.readByte a) 1#8 false).r]) s t ∧
      t.flags = s.decFlags (s.readByte a) := by
  intro t
  refine ⟨fun x hx => ?_, fun a ha => ?_, ?_, ?_⟩
  · cases x <;> simp_all [Loc.Same, t, State.decMem]
  · simp at ha
    simp [t, State.decMem, ha]
  · exact ((s.readDone_transacts a).append (State.writeByte_transacts _ a _) rfl).congr rfl rfl rfl rfl
  · simp [t, State.decMem]

theorem State.shiftReg_spec (s : State) (op : Byte → Bool → Shifted) (r : Reg8) : let t := s.shiftReg op r
    Unchanged [.ofReg8 r, .f, .draws] s t ∧ MemUnchanged [] s t ∧
      t.r8 r = (op (s.r8 r) s.flags.c).r ∧
      t.flags = shiftFlags (op (s.r8 r) s.flags.c) := by
  intro t
  refine ⟨fun x hx => ?_, fun a ha => ?_, ?_, ?_⟩
  · cases r <;> cases x <;> simp_all [Loc.Same, Loc.ofReg8, t, State.shiftReg]
  · simp at ha
    simp [t, State.shiftReg]
  · cases r <;> rfl
  · simp [t, State.shiftReg]

theorem State.shiftMem_spec (s : State) (op : Byte → Bool → Shifted) (a : Word) : let t := s.shiftMem op a
    Unchanged [.f, .memIn, .draws, .trace] s t ∧ MemUnchanged [a] s t ∧
      Transacts (s.byteRead a ++ [.memWrite a (op (s.readByte a) s.flags.c).r]) s t ∧
      t.flags = shiftFlags (op (s.readByte a) s.flags.c) := by
  intro t
  refine ⟨fun x hx => ?_, fun a ha => ?_, ?_, ?_⟩
  · cases x <;> simp_all [Loc.Same, t, State.shiftMem]
  · simp at ha
    simp [t, State.shiftMem, ha]
  · exact ((s.readDone_transacts a).append (State.writeByte_transacts _ a _) rfl).congr rfl rfl rfl rfl
  · simp [t, State.shiftMem]

theorem State.rotateAcc_spec (s : State) (op : Byte → Bool → Shifted) : let t := s.rotateAcc op
    Unchanged [.a, .f, .draws] s t ∧ MemUnchanged [] s t ∧
      t.a = (op s.a s.flags.c).r ∧
      t.flags = { s.flags with h := false, n := false, c := (op s.a s.flags.c).c } := by
  intro t
  refine ⟨fun x hx => ?_, fun a ha => ?_, ?_, ?_⟩
  · cases x <;> simp_all [Loc.Same, t, State.rotateAcc]
  · simp at ha
    simp [t, State.rotateAcc]
  · simp [t, State.rotateAcc]
  · simp [t, State.rotateAcc]

theorem State.changeMem_spec (s : State) (op : Byte → Byte) (a : Word) : let t := s.changeMem op a
    Unchanged [.memIn, .draws, .trace] s t ∧ MemUnchanged [a] s t ∧
      Transacts (s.byteRead a ++ [.memWrite a (op (s.readByte a))]) s t := by
  intro t
  refine ⟨fun x hx => ?_, fun a ha => ?_, ?_⟩
  · cases x <;> simp_all [Loc.Same, t, State.changeMem]
  · simp at ha
    simp [t, State.changeMem, ha]
  · exact (s.readDone_transacts a).append (State.writeByte_transacts _ a _) rfl

theorem State.bitTest_spec (s : State) (v : Byte) (b : Nat) : let t := s.bitTest v b
    Unchanged [.f, .draws] s t ∧ MemUnchanged [] s t ∧
      t.flags = { s.flags with z := !v.getLsbD b, h := true, n := false } := by
  intro t
  refine ⟨fun x hx => ?_, fun a ha => ?_, ?_⟩
  · cases x <;> simp_all [Loc.Same, t, State.bitTest]
  · simp at ha
    simp [t, State.bitTest]
  · simp [t, State.bitTest]

theorem State.rotateDigitLeft_spec (s : State) : let t := s.rotateDigitLeft
    Unchanged [.a, .f, .memIn, .draws, .trace] s t ∧ MemUnchanged [s.hl] s t ∧
      t.a = nibbles (hiNibble s.a) (hiNibble (s.readByte s.hl)) ∧
      Transacts (s.byteRead s.hl ++ [.memWrite s.hl (nibbles (loNibble (s.readByte s.hl)) (loNibble s.a))]) s t ∧
      t.flags = s.digitFlags t.a := by
  intro t
  refine ⟨fun x hx => ?_, fun a ha => ?_, ?_, ?_, ?_⟩
  · cases x <;> simp_all [Loc.Same, t, State.rotateDigitLeft]
  · simp at ha
    simp [t, State.rotateDigitLeft, ha]
  · simp [t, State.rotateDigitLeft]
  · exact ((((s.readDone_transacts s.hl).congr rfl rfl rfl rfl).append
      (State.writeByte_transacts ((s.readDone s.hl).setA _) s.hl _)) rfl).congr rfl rfl rfl rfl
  · simp [t, State.rotateDigitLeft]

theorem State.rotateDigitRight_spec (s : State) : let t := s.rotateDigitRight
    Unchanged [.a, .f, .memIn, .draws, .trace] s t ∧ MemUnchanged [s.hl] s t ∧
      t.a = nibbles (hiNibble s.a) (loNibble (s.readByte s.hl)) ∧
      Transacts (s.byteRead s.hl ++ [.memWrite s.hl (nibbles (loNibble s.a) (hiNibble (s.readByte s.hl)))]) s t ∧
      t.flags = s.digitFlags t.a := by
  intro t
  refine ⟨fun x hx => ?_, fun a ha => ?_, ?_, ?_, ?_⟩
  · cases x <;> simp_all [Loc.Same, t, State.rotateDigitRight]
  · simp at ha
    simp [t, State.rotateDigitRight, ha]
  · simp [t, State.rotateDigitRight]
  · exact ((((s.readDone_transacts s.hl).congr rfl rfl rfl rfl).append
      (State.writeByte_transacts ((s.readDone s.hl).setA _) s.hl _)) rfl).congr rfl rfl rfl rfl
  · simp [t, State.rotateDigitRight]

theorem State.blockLoad_spec (s : State) (delta : Word) : let t := s.blockLoad delta
    Unchanged [.b, .c, .d, .e, .h, .l, .f, .memIn, .draws, .trace] s t ∧ MemUnchanged [s.de] s t ∧
      Transacts (s.byteRead s.hl ++ [.memWrite s.de (s.readByte s.hl)]) s t ∧
      t.bc = s.bc - 1 ∧
      t.de = s.de + delta ∧
      t.hl = s.hl + delta ∧
      t.flags = { s.flags with h := false, pv := (s.bc - 1) != 0#16, n := false } := by
  intro t
  refine ⟨fun x hx => ?_, fun a ha => ?_, ?_, ?_, ?_, ?_, ?_⟩
  · cases x <;> simp_all [Loc.Same, t, State.blockLoad]
  · simp at ha
    simp [t, State.blockLoad, ha]
  · exact ((s.readDone_transacts s.hl).append (State.writeByte_transacts _ s.de _) rfl).congr rfl rfl rfl rfl
  · simp [t, State.blockLoad]
  · simp [t, State.blockLoad]
  · simp [t, State.blockLoad]
  · simp [t, State.blockLoad]

theorem State.blockCompare_spec (s : State) (delta : Word) : let t := s.blockCompare delta
    Unchanged [.b, .c, .h, .l, .f, .memIn, .draws, .trace] s t ∧ MemUnchanged [] s t ∧
      Transacts (s.byteRead s.hl) s t ∧
      t.bc = s.bc - 1 ∧
      t.hl = s.hl + delta ∧
      t.flags = { arithFlags (sub8 s.a (s.readByte s.hl) false) true with pv := (s.bc - 1) != 0#16, c := s.flags.c } := by
  intro t
  refine ⟨fun x hx => ?_, fun a ha => ?_, ?_, ?_, ?_, ?_⟩
  · cases x <;> simp_all [Loc.Same, t, State.blockCompare]
  · simp at ha
    simp [t, State.blockCompare]
  · exact (s.readDone_transacts s.hl).congr rfl rfl rfl rfl
  · simp [t, State.blockCompare]
  · simp [t, State.blockCompare]
  · simp [t, State.blockCompare]

theorem State.blockIn_spec (s : State) (delta : Word) : let t := s.blockIn delta
    Unchanged [.b, .h, .l, .f, .draws, .ioIn, .trace] s t ∧ MemUnchanged [s.hl] s t ∧
      Transacts [.ioRead s.bc (s.ioByte s.bc), .memWrite s.hl (s.ioByte s.bc)] s t ∧
      t.b = s.b - 1 ∧
      t.hl = s.hl + delta ∧
      t.flags = s.blockIoFlags := by
  intro t
  refine ⟨fun x hx => ?_, fun a ha => ?_, ?_, ?_, ?_, ?_⟩
  · cases x <;> simp_all [Loc.Same, t, State.blockIn]
  · simp at ha
    simp [t, State.blockIn, ha]
  · exact ((s.ioReadDone_transacts s.bc).append (State.writeByte_transacts _ s.hl _) (by simp)).congr rfl rfl rfl rfl
  · simp [t, State.blockIn]
  · simp [t, State.blockIn]
  · simp [t, State.blockIn]

theorem State.blockOut_spec (s : State) (delta : Word) : let t := s.blockOut delta
    Unchanged [.b, .h, .l, .f, .memIn, .draws, .trace] s t ∧ MemUnchanged [] s t ∧
      Transacts (s.byteRead s.hl ++ [.ioWrite s.bc (s.readByte s.hl)]) s t ∧
      t.b = s.b - 1 ∧
      t.hl = s.hl + delta ∧
      t.flags = s.blockIoFlags := by
  intro t
  refine ⟨fun x hx => ?_, fun a ha => ?_, ?_, ?_, ?_, ?_⟩
  · cases x <;> simp_all [Loc.Same, t, State.blockOut]
  · simp at ha
    simp [t, State.blockOut]
  · exact ((s.readDone_transacts s.hl).append (State.ioWrite_transacts _ s.bc _) rfl).congr rfl rfl rfl rfl
  · simp [t, State.blockOut]
  · simp [t, State.blockOut]
  · simp [t, State.blockOut]

theorem State.decimalAdjust_frame (s : State) :
    Unchanged [.a, .f, .draws] s s.decimalAdjust ∧ MemUnchanged [] s s.decimalAdjust := by
  unfold State.decimalAdjust
  split
  · exact ⟨fun x hx => by cases x <;> simp_all [Loc.Same], fun a _ => by simp⟩
  · exact ⟨fun x hx => by cases x <;> simp_all [Loc.Same], fun a _ => by simp⟩

/-- Whichever way DAA goes, its flags but H and C follow the new A and the old N. -/
theorem State.decimalAdjust_flags (s : State) : ∃ h c,
    s.decimalAdjust.flags = s.adjustFlags s.decimalAdjust.a h c := by
  unfold State.decimalAdjust
  split
  · exact ⟨_, _, by simp only [State.flags_writeFlags]; rfl⟩
  · exact ⟨_, _, by simp only [State.flags_writeFlags]; rfl⟩

/-- Where a row of the table fits, A and C are the row's. -/
theorem State.decimalAdjust_of_row {s : State} {row : DaaRow} (h : daaRow s.a s.flags = some row) :
    s.decimalAdjust.a = s.a + row.add ∧ s.decimalAdjust.flags.c = row.cAfter := by
  unfold State.decimalAdjust
  rw [h]
  exact ⟨by simp, by simp only [State.flags_writeFlags]; rfl⟩

theorem State.writeByte_spec (s : State) (a : Word) (v : Byte) :
    Unchanged [.trace] s (s.writeByte a v) ∧ MemUnchanged [a] s (s.writeByte a v) ∧
      Transacts [.memWrite a v] s (s.writeByte a v) :=
  ⟨fun x hx => by cases x <;> simp_all [Loc.Same], fun b hb => by simp at hb; simp [hb], s.writeByte_transacts a v⟩

theorem State.readDone_spec (s : State) (a : Word) :
    Unchanged [.memIn, .draws, .trace] s (s.readDone a) ∧ MemUnchanged [] s (s.readDone a) ∧
      Transacts (s.byteRead a) s (s.readDone a) :=
  ⟨fun x hx => by cases x <;> simp_all [Loc.Same], fun b _ => rfl, s.readDone_transacts a⟩

theorem State.setR8_spec (s : State) (r : Reg8) (v : Byte) :
    Unchanged [.ofReg8 r] s (s.setR8 r v) ∧ MemUnchanged [] s (s.setR8 r v) ∧ (s.setR8 r v).r8 r = v :=
  ⟨fun x hx => by cases r <;> cases x <;> simp_all [Loc.Same, Loc.ofReg8], fun b _ => by simp, by simp⟩

theorem State.setRdd_spec (s : State) (r : RegDD) (v : Word) :
    Unchanged (Loc.ofDD r) s (s.setRdd r v) ∧ MemUnchanged [] s (s.setRdd r v) ∧ (s.setRdd r v).rdd r = v :=
  ⟨fun x hx => by cases r <;> cases x <;> simp_all [Loc.Same, Loc.ofDD], fun b _ => by simp, by simp⟩

theorem State.setRtt_spec (s : State) (r : RegTT) (v : Word) :
    Unchanged (Loc.ofTT r) s (s.setRtt r v) ∧ MemUnchanged [] s (s.setRtt r v) ∧ (s.setRtt r v).rtt r = v :=
  ⟨fun x hx => by cases r <;> cases x <;> simp_all [Loc.Same, Loc.ofTT], fun b _ => by simp, by simp⟩

/-- The two bytes of a word, the high one first, make the word. -/
theorem bytesToNat_halves (v : Word) : bytesToNat (hiByte v) (loByte v) = v.toNat := by
  rw [bytesToNat, ← word16_toNat, word16_hiByte_loByte]

theorem State.readWord_toNat (s : State) (a : Word) : (s.readWord a).toNat = s.wordAt a := word16_toNat _ _

theorem State.readWordDone_spec (s : State) (a : Word) :
    Unchanged [.memIn, .draws, .trace] s (s.readWordDone a) ∧ MemUnchanged [] s (s.readWordDone a) ∧
      Transacts (s.wordRead a) s (s.readWordDone a) :=
  ⟨fun x hx => by cases x <;> simp_all [Loc.Same], fun b _ => by simp, s.readWordDone_transacts a⟩

theorem State.writeWord_spec (s : State) (a v : Word) :
    Unchanged [.trace] s (s.writeWord a v) ∧ MemUnchanged [a, a + 1] s (s.writeWord a v) ∧
      StoredWord a v [] s (s.writeWord a v) :=
  ⟨fun x hx => by cases x <;> simp_all [Loc.Same], fun b hb => by simp at hb; simp [hb], _, _, bytesToNat_halves v,
    (s.writeByte_transacts a _).append (State.writeByte_transacts _ (a + 1) _) rfl⟩

theorem State.push16_transacts (s : State) (v : Word) :
    Transacts [.memWrite (s.sp - 1) (hiByte v), .memWrite (s.sp - 2) (loByte v)] s (s.push16 v) :=
  ((s.writeByte_transacts (s.sp - 1) _).append (State.writeByte_transacts _ (s.sp - 2) _) rfl).congr rfl rfl rfl rfl

theorem State.push16_spec (s : State) (v : Word) :
    Unchanged [.sp, .trace] s (s.push16 v) ∧ MemUnchanged [s.sp - 1, s.sp - 2] s (s.push16 v) ∧
      PushedWord v [] s (s.push16 v) :=
  ⟨fun x hx => by cases x <;> simp_all [Loc.Same], fun b hb => by simp at hb; simp [hb], by simp, _, _, bytesToNat_halves v,
    s.push16_transacts v⟩

/-- What was pushed where RAM stands is on top of the stack. -/
theorem State.topWord_push16 {s : State} (v : Word) (h1 : s.keeps (s.sp - 1) = true) (h2 : s.keeps (s.sp - 2) = true) :
    (s.push16 v).topWord = v := by
  have e : s.sp - 2 + 1 = s.sp - 1 := by bv_omega
  have k1 : s.keeps (s.sp - 1#16) = true := h1
  have k2 : s.keeps (s.sp - 2#16) = true := h2
  have e1 : (s.push16 v).readByte (s.sp - 2) = loByte v := by
    rw [State.readByte_of_holds (by simpa using State.holds_of_keeps h2)]
    simp [k2]
  have e2 : ((s.push16 v).readDone (s.sp - 2)).readByte (s.sp - 1) = hiByte v := by
    rw [State.readByte_of_holds (by simpa using State.holds_of_keeps h1)]
    simp [k1]
  rw [State.topWord, State.push16_sp, State.readWord, e, e1, e2, word16_hiByte_loByte]

/-- The word on top of the stack is read and SP is raised. -/
theorem State.dropWord_spec (s : State) :
    Unchanged [.sp, .memIn, .draws, .trace] s s.dropWord ∧ MemUnchanged [] s s.dropWord ∧
      Transacts (s.wordRead s.sp) s s.dropWord ∧ s.dropWord.sp = s.sp + 2 :=
  ⟨fun x hx => by cases x <;> simp_all [Loc.Same], fun b _ => by simp,
    (s.readWordDone_transacts s.sp).congr rfl rfl rfl rfl, by simp⟩

/-- The word on top of the stack is read, then the register's word is stored in its place. -/
theorem State.storeTop_spec (s : State) (v : Word) :
    Unchanged [.memIn, .draws, .trace] s (s.storeTop v) ∧ MemUnchanged [s.sp, s.sp + 1] s (s.storeTop v) ∧
      StoredWord s.sp v (s.wordRead s.sp) s (s.storeTop v) :=
  ⟨fun x hx => by cases x <;> simp_all [Loc.Same], fun b hb => by simp at hb; simp [hb], _, _, bytesToNat_halves v,
    (s.readWordDone_transacts s.sp).append
      ((State.writeByte_transacts _ s.sp _).append (State.writeByte_transacts _ (s.sp + 1) _) rfl) rfl⟩

theorem State.returnFromStack_spec (s : State) :
    Unchanged [.pc, .sp, .memIn, .draws, .trace] s s.returnFromStack ∧ MemUnchanged [] s s.returnFromStack ∧
      Transacts (s.wordRead s.sp) s s.returnFromStack ∧
      s.returnFromStack.pc.toNat = s.wordAt s.sp ∧ s.returnFromStack.sp = s.sp + 2 :=
  ⟨fun x hx => by cases x <;> simp_all [Loc.Same], fun b _ => by simp,
    (s.readWordDone_transacts s.sp).congr rfl rfl rfl rfl, by simp [State.topWord, State.readWord_toNat], by simp⟩

/-- A relative jump's target, as a number. -/
theorem State.relative_toNat (s : State) (e : Int) : ((s.relative e).toNat : Int) = ((s.pc.toNat : Int) + e) % 65536 := by
  simp only [State.relative, BitVec.toNat_add, BitVec.toNat_ofInt]
  omega

/-- The address of an indexed operand, as a number. -/
theorem isIndexed_add_sext16 (a : Word) (d : Byte) : IsIndexed (a + sext16 d) a d := by
  unfold IsIndexed
  have h := sext16_toInt d
  have := (sext16 d).isLt
  rw [word_toInt] at h
  rw [← h, BitVec.toNat_add]
  split <;> omega

end Sys2Proof.Machine
end

