-- ==== Sys2Proof/Laws/PerInstr.lean ====
section
/-! SUPPORT. What holds of every instruction as syntax, one lemma for each constructor. -/

namespace Sys2Proof.Laws

/-- The encoding has as many bytes as the instruction's length says (R91). -/
def EncodeLength.Statement (i : Instr) : Prop := (encode i).length = i.length

theorem EncodeLength.nop : EncodeLength.Statement .nop := rfl
theorem EncodeLength.ldDdMn (dd : RegDD) (mn : Word) : EncodeLength.Statement (.ldDdMn dd mn) := rfl
theorem EncodeLength.ldBcIndA : EncodeLength.Statement .ldBcIndA := rfl
theorem EncodeLength.ldDeIndA : EncodeLength.Statement .ldDeIndA := rfl
theorem EncodeLength.ldMnIndHl (mn : Word) : EncodeLength.Statement (.ldMnIndHl mn) := rfl
theorem EncodeLength.ldMnIndA (mn : Word) : EncodeLength.Statement (.ldMnIndA mn) := rfl
theorem EncodeLength.incSs (dd : RegDD) : EncodeLength.Statement (.incSs dd) := rfl
theorem EncodeLength.incR (r : Reg8) : EncodeLength.Statement (.incR r) := rfl
theorem EncodeLength.incHlInd : EncodeLength.Statement .incHlInd := rfl
theorem EncodeLength.decR (r : Reg8) : EncodeLength.Statement (.decR r) := rfl
theorem EncodeLength.decHlInd : EncodeLength.Statement .decHlInd := rfl
theorem EncodeLength.ldRN (r : Reg8) (n : Byte) : EncodeLength.Statement (.ldRN r n) := rfl
theorem EncodeLength.ldHlIndN (n : Byte) : EncodeLength.Statement (.ldHlIndN n) := rfl
theorem EncodeLength.rlca : EncodeLength.Statement .rlca := rfl
theorem EncodeLength.rrca : EncodeLength.Statement .rrca := rfl
theorem EncodeLength.rla : EncodeLength.Statement .rla := rfl
theorem EncodeLength.rra : EncodeLength.Statement .rra := rfl
theorem EncodeLength.daa : EncodeLength.Statement .daa := rfl
theorem EncodeLength.cpl : EncodeLength.Statement .cpl := rfl
theorem EncodeLength.scf : EncodeLength.Statement .scf := rfl
theorem EncodeLength.ccf : EncodeLength.Statement .ccf := rfl
theorem EncodeLength.exAfAf : EncodeLength.Statement .exAfAf := rfl
theorem EncodeLength.djnz (e : Int) : EncodeLength.Statement (.djnz e) := rfl
theorem EncodeLength.jr (e : Int) : EncodeLength.Statement (.jr e) := rfl
theorem EncodeLength.jrCc (cc : CC) (e : Int) : EncodeLength.Statement (.jrCc cc e) := rfl
theorem EncodeLength.addHlSs (ss : RegDD) : EncodeLength.Statement (.addHlSs ss) := rfl
theorem EncodeLength.ldABcInd : EncodeLength.Statement .ldABcInd := rfl
theorem EncodeLength.ldADeInd : EncodeLength.Statement .ldADeInd := rfl
theorem EncodeLength.ldHlMnInd (mn : Word) : EncodeLength.Statement (.ldHlMnInd mn) := rfl
theorem EncodeLength.ldAMnInd (mn : Word) : EncodeLength.Statement (.ldAMnInd mn) := rfl
theorem EncodeLength.decSs (dd : RegDD) : EncodeLength.Statement (.decSs dd) := rfl
theorem EncodeLength.ldRR (rd : Reg8) (rs : Reg8) : EncodeLength.Statement (.ldRR rd rs) := rfl
theorem EncodeLength.ldRHlInd (r : Reg8) : EncodeLength.Statement (.ldRHlInd r) := rfl
theorem EncodeLength.ldHlIndR (r : Reg8) : EncodeLength.Statement (.ldHlIndR r) := rfl
theorem EncodeLength.halt : EncodeLength.Statement .halt := rfl
theorem EncodeLength.addAR (r : Reg8) : EncodeLength.Statement (.addAR r) := rfl
theorem EncodeLength.addAHlInd : EncodeLength.Statement .addAHlInd := rfl
theorem EncodeLength.addAN (n : Byte) : EncodeLength.Statement (.addAN n) := rfl
theorem EncodeLength.adcAR (r : Reg8) : EncodeLength.Statement (.adcAR r) := rfl
theorem EncodeLength.adcAHlInd : EncodeLength.Statement .adcAHlInd := rfl
theorem EncodeLength.adcAN (n : Byte) : EncodeLength.Statement (.adcAN n) := rfl
theorem EncodeLength.subAR (r : Reg8) : EncodeLength.Statement (.subAR r) := rfl
theorem EncodeLength.subAHlInd : EncodeLength.Statement .subAHlInd := rfl
theorem EncodeLength.subAN (n : Byte) : EncodeLength.Statement (.subAN n) := rfl
theorem EncodeLength.sbcAR (r : Reg8) : EncodeLength.Statement (.sbcAR r) := rfl
theorem EncodeLength.sbcAHlInd : EncodeLength.Statement .sbcAHlInd := rfl
theorem EncodeLength.sbcAN (n : Byte) : EncodeLength.Statement (.sbcAN n) := rfl
theorem EncodeLength.andAR (r : Reg8) : EncodeLength.Statement (.andAR r) := rfl
theorem EncodeLength.andAHlInd : EncodeLength.Statement .andAHlInd := rfl
theorem EncodeLength.andAN (n : Byte) : EncodeLength.Statement (.andAN n) := rfl
theorem EncodeLength.xorAR (r : Reg8) : EncodeLength.Statement (.xorAR r) := rfl
theorem EncodeLength.xorAHlInd : EncodeLength.Statement .xorAHlInd := rfl
theorem EncodeLength.xorAN (n : Byte) : EncodeLength.Statement (.xorAN n) := rfl
theorem EncodeLength.orAR (r : Reg8) : EncodeLength.Statement (.orAR r) := rfl
theorem EncodeLength.orAHlInd : EncodeLength.Statement .orAHlInd := rfl
theorem EncodeLength.orAN (n : Byte) : EncodeLength.Statement (.orAN n) := rfl
theorem EncodeLength.cpAR (r : Reg8) : EncodeLength.Statement (.cpAR r) := rfl
theorem EncodeLength.cpAHlInd : EncodeLength.Statement .cpAHlInd := rfl
theorem EncodeLength.cpAN (n : Byte) : EncodeLength.Statement (.cpAN n) := rfl
theorem EncodeLength.retCc (cc : Cond) : EncodeLength.Statement (.retCc cc) := rfl
theorem EncodeLength.popTt (tt : RegTT) : EncodeLength.Statement (.popTt tt) := rfl
theorem EncodeLength.jpCcMn (cc : Cond) (mn : Word) : EncodeLength.Statement (.jpCcMn cc mn) := rfl
theorem EncodeLength.jpMn (mn : Word) : EncodeLength.Statement (.jpMn mn) := rfl
theorem EncodeLength.callCcMn (cc : Cond) (mn : Word) : EncodeLength.Statement (.callCcMn cc mn) := rfl
theorem EncodeLength.pushTt (tt : RegTT) : EncodeLength.Statement (.pushTt tt) := rfl
theorem EncodeLength.rst (v : Byte) : EncodeLength.Statement (.rst v) := rfl
theorem EncodeLength.ret : EncodeLength.Statement .ret := rfl
theorem EncodeLength.exx : EncodeLength.Statement .exx := rfl
theorem EncodeLength.jpHl : EncodeLength.Statement .jpHl := rfl
theorem EncodeLength.ldSpHl : EncodeLength.Statement .ldSpHl := rfl
theorem EncodeLength.outNA (n : Byte) : EncodeLength.Statement (.outNA n) := rfl
theorem EncodeLength.inAN (n : Byte) : EncodeLength.Statement (.inAN n) := rfl
theorem EncodeLength.exSpIndHl : EncodeLength.Statement .exSpIndHl := rfl
theorem EncodeLength.exDeHl : EncodeLength.Statement .exDeHl := rfl
theorem EncodeLength.di : EncodeLength.Statement .di := rfl
theorem EncodeLength.ei : EncodeLength.Statement .ei := rfl
theorem EncodeLength.callMn (mn : Word) : EncodeLength.Statement (.callMn mn) := rfl
theorem EncodeLength.rlcR (r : Reg8) : EncodeLength.Statement (.rlcR r) := rfl
theorem EncodeLength.rlcHlInd : EncodeLength.Statement .rlcHlInd := rfl
theorem EncodeLength.rrcR (r : Reg8) : EncodeLength.Statement (.rrcR r) := rfl
theorem EncodeLength.rrcHlInd : EncodeLength.Statement .rrcHlInd := rfl
theorem EncodeLength.rlR (r : Reg8) : EncodeLength.Statement (.rlR r) := rfl
theorem EncodeLength.rlHlInd : EncodeLength.Statement .rlHlInd := rfl
theorem EncodeLength.rrR (r : Reg8) : EncodeLength.Statement (.rrR r) := rfl
theorem EncodeLength.rrHlInd : EncodeLength.Statement .rrHlInd := rfl
theorem EncodeLength.slaR (r : Reg8) : EncodeLength.Statement (.slaR r) := rfl
theorem EncodeLength.slaHlInd : EncodeLength.Statement .slaHlInd := rfl
theorem EncodeLength.sraR (r : Reg8) : EncodeLength.Statement (.sraR r) := rfl
theorem EncodeLength.sraHlInd : EncodeLength.Statement .sraHlInd := rfl
theorem EncodeLength.srlR (r : Reg8) : EncodeLength.Statement (.srlR r) := rfl
theorem EncodeLength.srlHlInd : EncodeLength.Statement .srlHlInd := rfl
theorem EncodeLength.bitR (b : Nat) (r : Reg8) : EncodeLength.Statement (.bitR b r) := rfl
theorem EncodeLength.bitHlInd (b : Nat) : EncodeLength.Statement (.bitHlInd b) := rfl
theorem EncodeLength.resR (b : Nat) (r : Reg8) : EncodeLength.Statement (.resR b r) := rfl
theorem EncodeLength.resHlInd (b : Nat) : EncodeLength.Statement (.resHlInd b) := rfl
theorem EncodeLength.setR (b : Nat) (r : Reg8) : EncodeLength.Statement (.setR b r) := rfl
theorem EncodeLength.setHlInd (b : Nat) : EncodeLength.Statement (.setHlInd b) := rfl
theorem EncodeLength.inRC (r : Reg8) : EncodeLength.Statement (.inRC r) := rfl
theorem EncodeLength.outCR (r : Reg8) : EncodeLength.Statement (.outCR r) := rfl
theorem EncodeLength.sbcHlSs (ss : RegDD) : EncodeLength.Statement (.sbcHlSs ss) := rfl
theorem EncodeLength.adcHlSs (ss : RegDD) : EncodeLength.Statement (.adcHlSs ss) := rfl
theorem EncodeLength.ldMnIndSs (mn : Word) (ss : RegDD) : EncodeLength.Statement (.ldMnIndSs mn ss) := rfl
theorem EncodeLength.ldDdMnInd (dd : RegDD) (mn : Word) : EncodeLength.Statement (.ldDdMnInd dd mn) := rfl
theorem EncodeLength.neg : EncodeLength.Statement .neg := rfl
theorem EncodeLength.retn : EncodeLength.Statement .retn := rfl
theorem EncodeLength.reti : EncodeLength.Statement .reti := rfl
theorem EncodeLength.im0 : EncodeLength.Statement .im0 := rfl
theorem EncodeLength.im1 : EncodeLength.Statement .im1 := rfl
theorem EncodeLength.im2 : EncodeLength.Statement .im2 := rfl
theorem EncodeLength.ldIRegA : EncodeLength.Statement .ldIRegA := rfl
theorem EncodeLength.ldRRegA : EncodeLength.Statement .ldRRegA := rfl
theorem EncodeLength.ldAIReg : EncodeLength.Statement .ldAIReg := rfl
theorem EncodeLength.ldARReg : EncodeLength.Statement .ldARReg := rfl
theorem EncodeLength.rrd : EncodeLength.Statement .rrd := rfl
theorem EncodeLength.rld : EncodeLength.Statement .rld := rfl
theorem EncodeLength.ldi : EncodeLength.Statement .ldi := rfl
theorem EncodeLength.cpi : EncodeLength.Statement .cpi := rfl
theorem EncodeLength.ini : EncodeLength.Statement .ini := rfl
theorem EncodeLength.outi : EncodeLength.Statement .outi := rfl
theorem EncodeLength.ldd : EncodeLength.Statement .ldd := rfl
theorem EncodeLength.cpd : EncodeLength.Statement .cpd := rfl
theorem EncodeLength.ind : EncodeLength.Statement .ind := rfl
theorem EncodeLength.outd : EncodeLength.Statement .outd := rfl
theorem EncodeLength.ldir : EncodeLength.Statement .ldir := rfl
theorem EncodeLength.cpir : EncodeLength.Statement .cpir := rfl
theorem EncodeLength.inir : EncodeLength.Statement .inir := rfl
theorem EncodeLength.otir : EncodeLength.Statement .otir := rfl
theorem EncodeLength.lddr : EncodeLength.Statement .lddr := rfl
theorem EncodeLength.cpdr : EncodeLength.Statement .cpdr := rfl
theorem EncodeLength.indr : EncodeLength.Statement .indr := rfl
theorem EncodeLength.otdr : EncodeLength.Statement .otdr := rfl
theorem EncodeLength.addIxXx (xx : RegXX) : EncodeLength.Statement (.addIxXx xx) := rfl
theorem EncodeLength.ldIxMn (mn : Word) : EncodeLength.Statement (.ldIxMn mn) := rfl
theorem EncodeLength.ldMnIndIx (mn : Word) : EncodeLength.Statement (.ldMnIndIx mn) := rfl
theorem EncodeLength.incIx : EncodeLength.Statement .incIx := rfl
theorem EncodeLength.ldIxMnInd (mn : Word) : EncodeLength.Statement (.ldIxMnInd mn) := rfl
theorem EncodeLength.decIx : EncodeLength.Statement .decIx := rfl
theorem EncodeLength.incIxInd (d : Byte) : EncodeLength.Statement (.incIxInd d) := rfl
theorem EncodeLength.decIxInd (d : Byte) : EncodeLength.Statement (.decIxInd d) := rfl
theorem EncodeLength.ldIxIndN (d : Byte) (n : Byte) : EncodeLength.Statement (.ldIxIndN d n) := rfl
theorem EncodeLength.ldRIxInd (r : Reg8) (d : Byte) : EncodeLength.Statement (.ldRIxInd r d) := rfl
theorem EncodeLength.ldIxIndR (d : Byte) (r : Reg8) : EncodeLength.Statement (.ldIxIndR d r) := rfl
theorem EncodeLength.addAIxInd (d : Byte) : EncodeLength.Statement (.addAIxInd d) := rfl
theorem EncodeLength.adcAIxInd (d : Byte) : EncodeLength.Statement (.adcAIxInd d) := rfl
theorem EncodeLength.subAIxInd (d : Byte) : EncodeLength.Statement (.subAIxInd d) := rfl
theorem EncodeLength.sbcAIxInd (d : Byte) : EncodeLength.Statement (.sbcAIxInd d) := rfl
theorem EncodeLength.andAIxInd (d : Byte) : EncodeLength.Statement (.andAIxInd d) := rfl
theorem EncodeLength.xorAIxInd (d : Byte) : EncodeLength.Statement (.xorAIxInd d) := rfl
theorem EncodeLength.orAIxInd (d : Byte) : EncodeLength.Statement (.orAIxInd d) := rfl
theorem EncodeLength.cpAIxInd (d : Byte) : EncodeLength.Statement (.cpAIxInd d) := rfl
theorem EncodeLength.popIx : EncodeLength.Statement .popIx := rfl
theorem EncodeLength.exSpIndIx : EncodeLength.Statement .exSpIndIx := rfl
theorem EncodeLength.pushIx : EncodeLength.Statement .pushIx := rfl
theorem EncodeLength.jpIx : EncodeLength.Statement .jpIx := rfl
theorem EncodeLength.ldSpIx : EncodeLength.Statement .ldSpIx := rfl
theorem EncodeLength.rlcIxInd (d : Byte) : EncodeLength.Statement (.rlcIxInd d) := rfl
theorem EncodeLength.rrcIxInd (d : Byte) : EncodeLength.Statement (.rrcIxInd d) := rfl
theorem EncodeLength.rlIxInd (d : Byte) : EncodeLength.Statement (.rlIxInd d) := rfl
theorem EncodeLength.rrIxInd (d : Byte) : EncodeLength.Statement (.rrIxInd d) := rfl
theorem EncodeLength.slaIxInd (d : Byte) : EncodeLength.Statement (.slaIxInd d) := rfl
theorem EncodeLength.sraIxInd (d : Byte) : EncodeLength.Statement (.sraIxInd d) := rfl
theorem EncodeLength.srlIxInd (d : Byte) : EncodeLength.Statement (.srlIxInd d) := rfl
theorem EncodeLength.bitIxInd (b : Nat) (d : Byte) : EncodeLength.Statement (.bitIxInd b d) := rfl
theorem EncodeLength.resIxInd (b : Nat) (d : Byte) : EncodeLength.Statement (.resIxInd b d) := rfl
theorem EncodeLength.setIxInd (b : Nat) (d : Byte) : EncodeLength.Statement (.setIxInd b d) := rfl
theorem EncodeLength.addIyYy (yy : RegYY) : EncodeLength.Statement (.addIyYy yy) := rfl
theorem EncodeLength.ldIyMn (mn : Word) : EncodeLength.Statement (.ldIyMn mn) := rfl
theorem EncodeLength.ldMnIndIy (mn : Word) : EncodeLength.Statement (.ldMnIndIy mn) := rfl
theorem EncodeLength.incIy : EncodeLength.Statement .incIy := rfl
theorem EncodeLength.ldIyMnInd (mn : Word) : EncodeLength.Statement (.ldIyMnInd mn) := rfl
theorem EncodeLength.decIy : EncodeLength.Statement .decIy := rfl
theorem EncodeLength.incIyInd (d : Byte) : EncodeLength.Statement (.incIyInd d) := rfl
theorem EncodeLength.decIyInd (d : Byte) : EncodeLength.Statement (.decIyInd d) := rfl
theorem EncodeLength.ldIyIndN (d : Byte) (n : Byte) : EncodeLength.Statement (.ldIyIndN d n) := rfl
theorem EncodeLength.ldRIyInd (r : Reg8) (d : Byte) : EncodeLength.Statement (.ldRIyInd r d) := rfl
theorem EncodeLength.ldIyIndR (d : Byte) (r : Reg8) : EncodeLength.Statement (.ldIyIndR d r) := rfl
theorem EncodeLength.addAIyInd (d : Byte) : EncodeLength.Statement (.addAIyInd d) := rfl
theorem EncodeLength.adcAIyInd (d : Byte) : EncodeLength.Statement (.adcAIyInd d) := rfl
theorem EncodeLength.subAIyInd (d : Byte) : EncodeLength.Statement (.subAIyInd d) := rfl
theorem EncodeLength.sbcAIyInd (d : Byte) : EncodeLength.Statement (.sbcAIyInd d) := rfl
theorem EncodeLength.andAIyInd (d : Byte) : EncodeLength.Statement (.andAIyInd d) := rfl
theorem EncodeLength.xorAIyInd (d : Byte) : EncodeLength.Statement (.xorAIyInd d) := rfl
theorem EncodeLength.orAIyInd (d : Byte) : EncodeLength.Statement (.orAIyInd d) := rfl
theorem EncodeLength.cpAIyInd (d : Byte) : EncodeLength.Statement (.cpAIyInd d) := rfl
theorem EncodeLength.popIy : EncodeLength.Statement .popIy := rfl
theorem EncodeLength.exSpIndIy : EncodeLength.Statement .exSpIndIy := rfl
theorem EncodeLength.pushIy : EncodeLength.Statement .pushIy := rfl
theorem EncodeLength.jpIy : EncodeLength.Statement .jpIy := rfl
theorem EncodeLength.ldSpIy : EncodeLength.Statement .ldSpIy := rfl
theorem EncodeLength.rlcIyInd (d : Byte) : EncodeLength.Statement (.rlcIyInd d) := rfl
theorem EncodeLength.rrcIyInd (d : Byte) : EncodeLength.Statement (.rrcIyInd d) := rfl
theorem EncodeLength.rlIyInd (d : Byte) : EncodeLength.Statement (.rlIyInd d) := rfl
theorem EncodeLength.rrIyInd (d : Byte) : EncodeLength.Statement (.rrIyInd d) := rfl
theorem EncodeLength.slaIyInd (d : Byte) : EncodeLength.Statement (.slaIyInd d) := rfl
theorem EncodeLength.sraIyInd (d : Byte) : EncodeLength.Statement (.sraIyInd d) := rfl
theorem EncodeLength.srlIyInd (d : Byte) : EncodeLength.Statement (.srlIyInd d) := rfl
theorem EncodeLength.bitIyInd (b : Nat) (d : Byte) : EncodeLength.Statement (.bitIyInd b d) := rfl
theorem EncodeLength.resIyInd (b : Nat) (d : Byte) : EncodeLength.Statement (.resIyInd b d) := rfl
theorem EncodeLength.setIyInd (b : Nat) (d : Byte) : EncodeLength.Statement (.setIyInd b d) := rfl

end Sys2Proof.Laws
end

