-- ==== Sys2Proof/Laws/Steps.lean ====
section
/-! SUPPORT. Boundaries and steps: what sampling leaves, what the acknowledges do, what another master's writes leave in
memory, and which way a step goes. -/

namespace Sys2Proof.Machine

/-- What the decoder sees is the bytes at PC. -/
theorem State.sampled_fetch (s : State) : s.sampled.fetch = s.bytesAtPC := by
  have e2 : s.pc + 2 = s.pc + 1 + 1 := by bv_omega
  have e3 : s.pc + 3 = s.pc + 1 + 1 + 1 := by bv_omega
  unfold State.bytesAtPC
  rw [e2, e3]
  rfl

/-! Sampling changes nothing that a read depends on. -/

@[simp] theorem State.sampled_byteRead (s : State) (a : Word) : s.sampled.byteRead a = s.byteRead a := rfl

@[simp] theorem State.sampled_readDone_wordRead (s : State) (a b : Word) :
    (s.sampled.readDone a).wordRead b = (s.readDone a).wordRead b := rfl

@[simp] theorem State.sampled_readDone_wordAt (s : State) (a b : Word) :
    (s.sampled.readDone a).wordAt b = (s.readDone a).wordAt b := rfl

/-- Fewer reads give the first of the bytes. -/
theorem take_bytesFrom (n k : Nat) (a : Word) (s : State) (h : k ≤ n) : (bytesFrom n a s).take k = bytesFrom k a s := by
  induction n generalizing k a s with
  | zero => simp [Nat.le_zero.mp h, bytesFrom]
  | succ n ih =>
    cases k with
    | zero => simp [bytesFrom]
    | succ k => exact congrArg _ (ih k (a + 1) (s.readDone a) (Nat.le_of_succ_le_succ h))

/-- Reading bytes one after another makes the transactions that give them. -/
theorem readFrom_transacts (n : Nat) (a : Word) (s : State) :
    Transacts (fetchReads a (bytesFrom n a s)) s (readFrom n a s) := by
  induction n generalizing a s with
  | zero => exact Transacts.refl s
  | succ n ih => exact (s.readDone_transacts a).append (ih (a + 1) (s.readDone a)) rfl

/-- What the fetch of an instruction adds to the trace. -/
theorem State.fetched_trace (s : State) (n : Nat) : ∃ reads idles again,
    (s.fetched n).trace = .unlisted (s.pc + BitVec.ofNat 16 n) reads idles ::
      ((if s.repeating then [.refetch s.pc again] else (fetchReads s.pc (bytesFrom n s.pc s)).reverse) ++ s.trace) := by
  refine ⟨Config.unlistedReads (readFrom n s.pc s).draws, Config.unlistedIdles (readFrom n s.pc s).draws,
    Config.refetches (readFrom n s.pc s).draws, ?_⟩
  have h := (readFrom_transacts n s.pc s).1
  unfold State.fetched
  cases s.repeating
  · exact congrArg _ h
  · rfl

/-- The fetch of an instruction whose bytes are the first of those at PC leaves all else. -/
theorem State.fetched_spec {s : State} {bytes rest : List Byte} (h : s.fetch = bytes ++ rest) :
    Unchanged [.memIn, .repeating, .trace, .draws] s (s.fetched bytes.length) ∧
      bytesFrom bytes.length s.pc s = bytes ∧
      (s.fetched bytes.length).memIn = s.memIn.drop ((fetchReads s.pc bytes).countP (BusEvent.takesMemInput s)) := by
  have hl : bytes.length ≤ 4 := by
    have := congrArg List.length h
    simp [State.fetch, bytesFrom] at this
    omega
  have hb : bytesFrom bytes.length s.pc s = bytes := by
    rw [← take_bytesFrom 4 _ _ _ hl, ← State.fetch, h, List.take_left]
  refine ⟨fun x hx => by cases x <;> simp_all [Loc.Same], hb, ?_⟩
  have h2 := (readFrom_transacts bytes.length s.pc s).2.1
  rw [hb] at h2
  exact h2

/-- The state an instruction executes in at an undisturbed boundary. -/
theorem State.fetched_fetchedAs {s u : State} {bytes rest : List Byte} (hu : u = { s with inputs := s.inputs.tail })
    (h : u.fetch = bytes ++ rest) : s.FetchedAs bytes (u.fetched bytes.length) := by
  obtain ⟨h1, hb, h3⟩ := State.fetched_spec h
  obtain ⟨reads, idles, again, h4⟩ := u.fetched_trace bytes.length
  rw [hb] at h4
  have e1 : u.pc = s.pc := by rw [hu]
  have e2 : u.repeating = s.repeating := by rw [hu]
  have e3 : u.trace = s.trace := by rw [hu]
  have e4 : u.memIn = s.memIn := by rw [hu]
  have e5 : u.memMap = s.memMap := by rw [hu]
  rw [e1, e2, e3] at h4
  rw [e1, e4, BusEvent.takesMemInput_of_memMap e5] at h3
  refine ⟨fun x hx => ?_, fun a _ => State.cell_of_mem (by simp [hu]) a, by simp [hu], rfl, h3, reads, idles, again, h4⟩
  have := h1 x
  cases x <;> simp_all [Loc.Same]

/-- Nothing is latched or sampled exactly when no non-maskable request is due. -/
theorem State.not_nmiDue_iff (s : State) : ¬ s.NmiDue ↔ s.nmiPending = false ∧ s.sample.nmiReq = false := by
  simp [State.NmiDue]

/-- A push after sampling is a push. -/
theorem PushedWord.of_sampled {v : Word} {before : List BusEvent} {s t : State} (h : PushedWord v before s.sampled t) :
    PushedWord v before s t := by
  obtain ⟨h1, hi, lo, h2, h3⟩ := h
  exact ⟨h1, hi, lo, h2, h3.of_start rfl rfl rfl rfl rfl⟩

/-- The end of an acknowledge that began with the transactions `before`. -/
theorem State.ackEnter_pushes {s u : State} {before : List BusEvent} (target : Word) (h : Transacts before s u)
    (hm : u.memMap = s.memMap) (hs : u.sp = s.sp) (hp : u.pc = s.pc) :
    PushedWord s.pc before s (u.ackEnter target) := by
  refine ⟨by simp [State.ackEnter, hs], _, _, bytesToNat_halves s.pc, ?_⟩
  have k := h.append (u.push16_transacts u.pc) hm
  rw [hs, hp] at k
  exact k.congr (by simp [State.ackEnter, hs, hp]) rfl rfl (by simp [State.ackEnter, hs, hp])

theorem State.ackEnter_spec (s : State) (target : Word) : let t := s.ackEnter target
    Unchanged [.pc, .sp, .halted, .repeating, .trace] s t ∧ MemUnchanged [s.sp - 1, s.sp - 2] s t ∧
      t.pc = target ∧ t.halted = false ∧ t.repeating = false := by
  intro t
  refine ⟨fun x hx => ?_, fun a ha => ?_, rfl, rfl, rfl⟩
  · cases x <;> simp_all [Loc.Same, t, State.ackEnter]
  · simp at ha
    simp [t, State.ackEnter, ha]

theorem State.ackBegin_spec (s : State) (v : Byte) : let t := s.ackBegin v
    Unchanged [.memIn, .draws, .trace] s t ∧ MemUnchanged [] s t ∧ Transacts (s.byteRead s.pc ++ [.iack v]) s t :=
  ⟨fun x hx => by cases x <;> simp_all [Loc.Same, State.ackBegin], fun _ _ => rfl,
    (s.readDone_transacts s.pc).append (State.emit_transacts _ _ rfl rfl fun _ => rfl) rfl⟩

/-- The acknowledge of every kind and mode but mode 2. -/
theorem State.acknowledge_spec (s : State) (v : Byte) (target : Word) : let t := s.acknowledge v target
    Unchanged [.pc, .sp, .halted, .repeating, .memIn, .draws, .trace] s t ∧ MemUnchanged [s.sp - 1, s.sp - 2] s t ∧
      PushedWord s.pc (s.byteRead s.pc ++ [.iack v]) s t ∧ t.pc = target ∧ t.halted = false ∧ t.repeating = false := by
  obtain ⟨b1, b2, b3⟩ := s.ackBegin_spec v
  obtain ⟨e1, e2, e3, e4, e5⟩ := (s.ackBegin v).ackEnter_spec target
  exact ⟨(b1.mono (by simp)).trans (e1.mono (by simp)), fun a ha => (e2 a ha).trans (b2 a (by simp)),
    State.ackEnter_pushes target b3 rfl rfl rfl, e3, e4, e5⟩

/-- The acknowledge of mode 2: its target is the word in the table. -/
theorem State.acknowledge2_spec (s : State) (v : Byte) : let t := s.acknowledge2 v
    let u := s.readDone s.pc
    Unchanged [.pc, .sp, .halted, .repeating, .memIn, .draws, .trace] s t ∧ MemUnchanged [s.sp - 1, s.sp - 2] s t ∧
      PushedWord s.pc (s.byteRead s.pc ++ [.iack v] ++ .idle :: u.wordRead (word16 s.iReg v)) s t ∧
      t.pc.toNat = u.wordAt (word16 s.iReg v) ∧ t.halted = false ∧ t.repeating = false := by
  obtain ⟨b1, b2, b3⟩ := s.ackBegin_spec v
  have w1 := State.readWordDone_spec (s.ackTable v) (s.vectorAddr v)
  have hsp : ((s.ackTable v).readWordDone (s.vectorAddr v)).sp = s.sp := by simp [State.ackTable, State.ackBegin]
  obtain ⟨e1, e2, e3, e4, e5⟩ :=
    ((s.ackTable v).readWordDone (s.vectorAddr v)).ackEnter_spec ((s.ackTable v).readWord (s.vectorAddr v))
  rw [hsp] at e2
  have hi : Unchanged [.memIn, .draws, .trace] (s.ackBegin v) (s.ackTable v) :=
    fun x hx => by cases x <;> simp_all [Loc.Same, State.ackTable]
  have hx : Transacts [.idle] (s.ackBegin v) (s.ackTable v) := State.emit_transacts _ _ rfl rfl fun _ => rfl
  have ht := b3.append (hx.append w1.2.2 rfl) rfl
  refine ⟨(((b1.trans hi).trans w1.1).mono (by simp)).trans (e1.mono (by simp)),
    fun a ha => (e2 a ha).trans ((w1.2.1 a (by simp)).trans (b2 a (by simp))),
    State.ackEnter_pushes _ ht (by simp [State.ackTable, State.ackBegin]) (by simp [State.ackTable, State.ackBegin])
      (by simp [State.ackTable, State.ackBegin]), ?_, e4, e5⟩
  exact (congrArg BitVec.toNat e3).trans (State.readWord_toNat _ _)

/-- Only these parts change at a non-maskable acknowledge. -/
theorem ackNonMaskable_spec (v : Byte) (s : State) : let t := ackNonMaskable v s
    Unchanged [.pc, .sp, .halted, .iff1, .nmiPending, .repeating, .memIn, .draws, .trace] s t ∧
      MemUnchanged [s.sp - 1, s.sp - 2] s t ∧
      PushedWord s.pc (s.byteRead s.pc ++ [.iack v]) s t ∧ t.pc = 0x0066#16 ∧ t.halted = false ∧ t.iff1 = false ∧
      t.nmiPending = false := by
  obtain ⟨h1, h2, ⟨h3, hi, lo, h4, h5⟩, h6, h7, -⟩ := State.acknowledge_spec s v 0x0066#16
  refine ⟨fun x hx => ?_, fun a ha => h2 a ha, ⟨h3, hi, lo, h4, h5.congr rfl rfl rfl rfl⟩, h6, h7, rfl, rfl⟩
  have h := h1 x
  cases x <;> simp_all [Loc.Same, ackNonMaskable]

/-- After the non-maskable acknowledge the interrupted PC is on top of the stack, where RAM stands there. -/
theorem ackNonMaskable_topWord {s : State} (v : Byte) (h1 : s.keeps (s.sp - 1) = true) (h2 : s.keeps (s.sp - 2) = true) :
    (ackNonMaskable v s).topWord = s.pc := by
  have h := State.topWord_push16 (s := s.ackBegin v) s.pc h1 h2
  have e : (ackNonMaskable v s).sp = ((s.ackBegin v).push16 s.pc).sp := by
    simp [ackNonMaskable, State.acknowledge, State.ackEnter, State.ackBegin]
  have k : ∀ a, (ackNonMaskable v s).readWord a = ((s.ackBegin v).push16 s.pc).readWord a := fun a =>
    State.readWord_congr (by simp [ackNonMaskable, State.acknowledge, State.ackEnter, State.ackBegin])
      (by simp [ackNonMaskable, State.acknowledge, State.ackEnter, State.ackBegin])
      (by simp [ackNonMaskable, State.acknowledge, State.ackEnter, State.ackBegin])
      (by simp [ackNonMaskable, State.acknowledge, State.ackEnter, State.ackBegin]) a
  rw [State.topWord, e, k]
  exact h

/-- The maskable acknowledge, as both kinds of mode take it from the state the common part leaves. -/
theorem State.ackTaken_spec {s u : State} {before : List BusEvent}
    (h1 : Unchanged [.pc, .sp, .halted, .repeating, .memIn, .draws, .trace] s u) (h2 : PushedWord s.pc before s u) :
    Unchanged [.pc, .sp, .halted, .iff1, .iff2, .repeating, .memIn, .draws, .trace] s (u.setIff false false) ∧
      PushedWord s.pc before s (u.setIff false false) := by
  obtain ⟨h3, hi, lo, h4, h5⟩ := h2
  refine ⟨fun x hx => ?_, h3, hi, lo, h4, h5.congr rfl rfl rfl rfl⟩
  have h := h1 x
  cases x <;> simp_all [Loc.Same]

/-- A maskable acknowledge is refused in mode 2 for an odd vector and is taken otherwise. -/
theorem ackMaskable_cases (v : Byte) (s : State) :
    (s.im = .im2 ∧ v.toNat % 2 = 1 ∧ ackMaskable v s = .refused (.oddVector v)) ∨
    (s.im = .im2 ∧ v.toNat % 2 = 0 ∧ ackMaskable v s = .next ((s.acknowledge2 v).setIff false false)) ∨
    (s.im ≠ .im2 ∧ ackMaskable v s = .next ((s.acknowledge v 0x0038#16).setIff false false)) := by
  have hb : v.getLsbD 0 = decide (v.toNat % 2 = 1) := by
    rw [BitVec.getLsbD, Nat.testBit_zero]
  unfold ackMaskable
  rw [hb]
  rcases s.im with _ | _ | _
  · simp
  · simp
  · rcases Nat.mod_two_eq_zero_or_one v.toNat with h | h <;> simp [h]

/-- After another master's accesses an address of RAM holds the last byte written to it. -/
theorem memRead_dmaAccesses (s : State) (ws : List DmaAccess) (m : Memory) (a : Word) :
    memRead (dmaAccesses s m ws) a.toNat =
      if s.keeps a then (lastDmaWrite a ws).getD (memRead m a.toNat) else memRead m a.toNat := by
  induction ws generalizing m with
  | nil => simp [dmaAccesses, lastDmaWrite]
  | cons w rest ih =>
    cases w with
    | memWrite b v =>
      rw [dmaAccesses, ih]
      by_cases h : b = a
      · subst h
        cases hk : s.keeps b <;> cases hl : lastDmaWrite b rest <;> simp [memRead_memWrite, lastDmaWrite, hl]
      · have h' : ¬ a.toNat = b.toNat := fun e => h (BitVec.eq_of_toNat_eq e.symm)
        cases s.keeps b <;> simp [memRead_memWrite, lastDmaWrite, h, h']
    | memRead _ => exact ih m
    | ioRead _ => exact ih m
    | ioWrite _ _ => exact ih m

/-- The ways a step goes, each with its condition (R402). -/
theorem step_cases (s : State) :
    (s.sample.reset = .user ∧ step s = .next s.sampled.resetUser) ∨
    (s.sample.reset = .powerOn ∧ step s = .next s.sampled.resetPowerOn) ∨
    (∃ ws, s.sample.reset = .inactive ∧ s.sample.dma = some ws ∧ step s = .next (s.sampled.grantBus ws)) ∨
    (s.Free ∧ s.NmiDue ∧ step s = .next (ackNonMaskable s.sample.ivec s.sampled)) ∨
    (s.Free ∧ ¬ s.NmiDue ∧ s.IntDue ∧ step s = ackMaskable s.sample.ivec s.sampled) ∨
    (s.Free ∧ ¬ s.NmiDue ∧ ¬ s.IntDue ∧ s.halted = true ∧ step s = .next (s.sampled.emit .halt)) ∨
    (s.Undisturbed ∧ step s = runInstruction s.sampled) := by
  unfold step State.service
  rcases hr : s.sample.reset with _ | _ | _
  · rcases hd : s.sample.dma with _ | ws
    · have hf : s.Free := ⟨hr, hd⟩
      by_cases h1 : s.NmiDue
      · have e : s.sampled.nmiPending = true := by simpa [State.NmiDue] using h1
        simp only [e]
        simp [hf, h1]
      · have e : s.sampled.nmiPending = false := by simpa [State.NmiDue] using h1
        by_cases h2 : s.IntDue
        · simp only [e, h2.1, h2.2]
          simp [hf, h1, h2]
        · have e2 : (s.sample.intReq && s.iff1) = false := by simpa [State.IntDue] using h2
          simp only [e, e2]
          cases h3 : s.halted <;> simp [State.Undisturbed, hf, h1, h2, h3]
    · simp
  · simp
  · simp

/-- An undisturbed boundary only uses up its sample. -/
theorem State.Undisturbed.sampled_eq {s : State} (h : s.Undisturbed) :
    s.sampled = { s with inputs := s.inputs.tail } := by
  obtain ⟨-, hn, -⟩ := h
  obtain ⟨h1, h2⟩ := s.not_nmiDue_iff.mp hn
  simp only [State.sampled, h1, h2, Bool.or_self]

/-- An undisturbed step runs what the bytes at PC decode to. -/
theorem step_of_undisturbed {s : State} (h : s.Undisturbed) : step s = runInstruction { s with inputs := s.inputs.tail } := by
  rw [← h.sampled_eq]
  obtain ⟨⟨hr, hd⟩, hn, hi, hh⟩ := h
  rcases step_cases s with c | c | ⟨ws, c⟩ | c | c | c | c <;> simp_all

end Sys2Proof.Machine
end

