-- ==== Sys2Proof/Tests/Slice0.lean ====
section
/-! SUPPORT. The model's own tests: what WellFormed refuses, words written out from the spec's encodings, the spec's own
vectors (95_test_vectors.md, named by their numbers there), and for every statement that has hypotheses a state and operands
that meet them. -/

namespace Sys2Proof.Tests

set_option Elab.async false

open Sys2Proof Sys2Proof.Machine

/-! ### WellFormed -/

theorem test_wf_bit_number : (Instr.bitR 7 .a).wellFormed = true ∧ (Instr.bitR 8 .a).wellFormed = false ∧
    (Instr.setHlInd 0).wellFormed = true ∧ (Instr.setHlInd 8).wellFormed = false ∧
    (Instr.resIxInd 7 0x00#8).wellFormed = true ∧ (Instr.resIyInd 9 0x00#8).wellFormed = false := by decide

theorem test_wf_distance : (Instr.jr 129).wellFormed = true ∧ (Instr.jr 130).wellFormed = false ∧
    (Instr.jr (-126)).wellFormed = true ∧ (Instr.jr (-127)).wellFormed = false ∧
    (Instr.djnz 130).wellFormed = false ∧ (Instr.jrCc .c (-127)).wellFormed = false := by decide

theorem test_wf_restart : (Instr.rst 0x38#8).wellFormed = true ∧ (Instr.rst 0x01#8).wellFormed = false ∧
    (Instr.rst 0x40#8).wellFormed = false := by decide

/-! ### Decoding. The words are the bit patterns of R102 to R106 with their fields filled in by R92 to R101. -/

/-- Each byte sequence decodes to the instruction beside it, whatever zeros follow. -/
def decodesTo (cases : List (List Byte × Instr)) : Bool :=
  cases.all fun p => match decode (p.1 ++ [0x00#8]) with
    | .ok (i, rest) => i == p.2 && rest == [0x00#8]
    | .error _ => false

theorem test_decode_cpuControl : decodesTo
    [ ([0b00000000#8], .nop),
      ([0b01110110#8], .halt),
      ([0b11110011#8], .di),
      ([0b11111011#8], .ei),
      ([0b11101101#8, 0b01000110#8], .im0),
      ([0b11101101#8, 0b01010110#8], .im1),
      ([0b11101101#8, 0b01011110#8], .im2) ] = true := by decide +kernel

theorem test_decode_load16_1 : decodesTo
    [ ([0b00000001#8, 0b10110011#8, 0b00011010#8], .ldDdMn .bc 0x1AB3#16),
      ([0b00100010#8, 0b11101011#8, 0b10100010#8], .ldMnIndHl 0xA2EB#16),
      ([0b00001000#8], .exAfAf),
      ([0b00101010#8, 0b11000010#8, 0b10000011#8], .ldHlMnInd 0x83C2#16),
      ([0b11000001#8], .popTt .bc),
      ([0b11010101#8], .pushTt .de),
      ([0b11011001#8], .exx),
      ([0b11111001#8], .ldSpHl),
      ([0b11100011#8], .exSpIndHl),
      ([0b11101011#8], .exDeHl),
      ([0b11101101#8, 0b01100011#8, 0b10011010#8, 0b01101011#8], .ldMnIndSs 0x6B9A#16 .hl),
      ([0b11101101#8, 0b01111011#8, 0b00100010#8, 0b00100011#8], .ldDdMnInd .sp 0x2322#16),
      ([0b11011101#8, 0b00100001#8, 0b00101010#8, 0b01011011#8], .ldIxMn 0x5B2A#16),
      ([0b11011101#8, 0b00100010#8, 0b10110010#8, 0b00010011#8], .ldMnIndIx 0x13B2#16),
      ([0b11011101#8, 0b00101010#8, 0b10111010#8, 0b01001011#8], .ldIxMnInd 0x4BBA#16),
      ([0b11011101#8, 0b11100001#8], .popIx),
      ([0b11011101#8, 0b11100011#8], .exSpIndIx),
      ([0b11011101#8, 0b11100101#8], .pushIx),
      ([0b11011101#8, 0b11111001#8], .ldSpIx),
      ([0b11111101#8, 0b00100001#8, 0b10100010#8, 0b10100011#8], .ldIyMn 0xA3A2#16),
      ([0b11111101#8, 0b00100010#8, 0b10101010#8, 0b11011011#8], .ldMnIndIy 0xDBAA#16),
      ([0b11111101#8, 0b00101010#8, 0b00110010#8, 0b10010011#8], .ldIyMnInd 0x9332#16),
      ([0b11111101#8, 0b11100001#8], .popIy),
      ([0b11111101#8, 0b11100011#8], .exSpIndIy) ] = true := by decide +kernel

theorem test_decode_load16_2 : decodesTo
    [ ([0b11111101#8, 0b11100101#8], .pushIy),
      ([0b11111101#8, 0b11111001#8], .ldSpIy) ] = true := by decide +kernel

theorem test_decode_load8 : decodesTo
    [ ([0b00000010#8], .ldBcIndA),
      ([0b00010010#8], .ldDeIndA),
      ([0b00110010#8, 0b10100011#8, 0b10101010#8], .ldMnIndA 0xAAA3#16),
      ([0b00010110#8, 0b11011011#8], .ldRN .d 0xDB#8),
      ([0b00110110#8, 0b00110010#8], .ldHlIndN 0x32#8),
      ([0b00001010#8], .ldABcInd),
      ([0b00011010#8], .ldADeInd),
      ([0b00111010#8, 0b11001010#8, 0b10111011#8], .ldAMnInd 0xBBCA#16),
      ([0b01011100#8], .ldRR .e .h),
      ([0b01101110#8], .ldRHlInd .l),
      ([0b01110111#8], .ldHlIndR .a),
      ([0b11101101#8, 0b01000111#8], .ldIRegA),
      ([0b11101101#8, 0b01001111#8], .ldRRegA),
      ([0b11101101#8, 0b01010111#8], .ldAIReg),
      ([0b11101101#8, 0b01011111#8], .ldARReg),
      ([0b11011101#8, 0b00110110#8, 0b01001010#8, 0b00111011#8], .ldIxIndN 0x4A#8 0x3B#8),
      ([0b11011101#8, 0b01111110#8, 0b11010010#8], .ldRIxInd .a 0xD2#8),
      ([0b11011101#8, 0b01110000#8, 0b11110011#8], .ldIxIndR 0xF3#8 .b),
      ([0b11111101#8, 0b00110110#8, 0b11000010#8, 0b10000011#8], .ldIyIndN 0xC2#8 0x83#8),
      ([0b11111101#8, 0b01001110#8, 0b11001010#8], .ldRIyInd .c 0xCA#8),
      ([0b11111101#8, 0b01110010#8, 0b10111011#8], .ldIyIndR 0xBB#8 .d) ] = true := by decide +kernel

theorem test_decode_alu16 : decodesTo
    [ ([0b00010011#8], .incSs .de),
      ([0b00101001#8], .addHlSs .hl),
      ([0b00111011#8], .decSs .sp),
      ([0b11101101#8, 0b01000010#8], .sbcHlSs .bc),
      ([0b11101101#8, 0b01011010#8], .adcHlSs .de),
      ([0b11011101#8, 0b00001001#8], .addIxXx .bc),
      ([0b11011101#8, 0b00100011#8], .incIx),
      ([0b11011101#8, 0b00101011#8], .decIx),
      ([0b11111101#8, 0b00001001#8], .addIyYy .bc),
      ([0b11111101#8, 0b00100011#8], .incIy),
      ([0b11111101#8, 0b00101011#8], .decIy) ] = true := by decide +kernel

theorem test_decode_alu8_1 : decodesTo
    [ ([0b00000100#8], .incR .b),
      ([0b00110100#8], .incHlInd),
      ([0b00001101#8], .decR .c),
      ([0b00110101#8], .decHlInd),
      ([0b00100111#8], .daa),
      ([0b00101111#8], .cpl),
      ([0b00110111#8], .scf),
      ([0b00111111#8], .ccf),
      ([0b10000000#8], .addAR .b),
      ([0b10000110#8], .addAHlInd),
      ([0b11000110#8, 0b01010010#8], .addAN 0x52#8),
      ([0b10001001#8], .adcAR .c),
      ([0b10001110#8], .adcAHlInd),
      ([0b11001110#8, 0b01110011#8], .adcAN 0x73#8),
      ([0b10010010#8], .subAR .d),
      ([0b10010110#8], .subAHlInd),
      ([0b11010110#8, 0b01011010#8], .subAN 0x5A#8),
      ([0b10011011#8], .sbcAR .e),
      ([0b10011110#8], .sbcAHlInd),
      ([0b11011110#8, 0b10101011#8], .sbcAN 0xAB#8),
      ([0b10100100#8], .andAR .h),
      ([0b10100110#8], .andAHlInd),
      ([0b11100110#8, 0b11100010#8], .andAN 0xE2#8),
      ([0b10101101#8], .xorAR .l) ] = true := by decide +kernel

theorem test_decode_alu8_2 : decodesTo
    [ ([0b10101110#8], .xorAHlInd),
      ([0b11101110#8, 0b01100011#8], .xorAN 0x63#8),
      ([0b10110111#8], .orAR .a),
      ([0b10110110#8], .orAHlInd),
      ([0b11110110#8, 0b11101010#8], .orAN 0xEA#8),
      ([0b10111000#8], .cpAR .b),
      ([0b10111110#8], .cpAHlInd),
      ([0b11111110#8, 0b10011011#8], .cpAN 0x9B#8),
      ([0b11101101#8, 0b01000100#8], .neg),
      ([0b11011101#8, 0b00110100#8, 0b01000010#8], .incIxInd 0x42#8),
      ([0b11011101#8, 0b00110101#8, 0b00000011#8], .decIxInd 0x03#8),
      ([0b11011101#8, 0b10000110#8, 0b11011010#8], .addAIxInd 0xDA#8),
      ([0b11011101#8, 0b10001110#8, 0b00101011#8], .adcAIxInd 0x2B#8),
      ([0b11011101#8, 0b10010110#8, 0b01100010#8], .subAIxInd 0x62#8),
      ([0b11011101#8, 0b10011110#8, 0b11100011#8], .sbcAIxInd 0xE3#8),
      ([0b11011101#8, 0b10100110#8, 0b01101010#8], .andAIxInd 0x6A#8),
      ([0b11011101#8, 0b10101110#8, 0b00011011#8], .xorAIxInd 0x1B#8),
      ([0b11011101#8, 0b10110110#8, 0b11110010#8], .orAIxInd 0xF2#8),
      ([0b11011101#8, 0b10111110#8, 0b11010011#8], .cpAIxInd 0xD3#8),
      ([0b11111101#8, 0b00110100#8, 0b00111010#8], .incIyInd 0x3A#8),
      ([0b11111101#8, 0b00110101#8, 0b11001011#8], .decIyInd 0xCB#8),
      ([0b11111101#8, 0b10000110#8, 0b01010010#8], .addAIyInd 0x52#8),
      ([0b11111101#8, 0b10001110#8, 0b01110011#8], .adcAIyInd 0x73#8),
      ([0b11111101#8, 0b10010110#8, 0b01011010#8], .subAIyInd 0x5A#8) ] = true := by decide +kernel

theorem test_decode_alu8_3 : decodesTo
    [ ([0b11111101#8, 0b10011110#8, 0b10101011#8], .sbcAIyInd 0xAB#8),
      ([0b11111101#8, 0b10100110#8, 0b11100010#8], .andAIyInd 0xE2#8),
      ([0b11111101#8, 0b10101110#8, 0b01100011#8], .xorAIyInd 0x63#8),
      ([0b11111101#8, 0b10110110#8, 0b11101010#8], .orAIyInd 0xEA#8),
      ([0b11111101#8, 0b10111110#8, 0b10011011#8], .cpAIyInd 0x9B#8) ] = true := by decide +kernel

theorem test_decode_rotateShiftBit_1 : decodesTo
    [ ([0b00000111#8], .rlca),
      ([0b00001111#8], .rrca),
      ([0b00010111#8], .rla),
      ([0b00011111#8], .rra),
      ([0b11001011#8, 0b00000001#8], .rlcR .c),
      ([0b11001011#8, 0b00000110#8], .rlcHlInd),
      ([0b11001011#8, 0b00001010#8], .rrcR .d),
      ([0b11001011#8, 0b00001110#8], .rrcHlInd),
      ([0b11001011#8, 0b00010011#8], .rlR .e),
      ([0b11001011#8, 0b00010110#8], .rlHlInd),
      ([0b11001011#8, 0b00011100#8], .rrR .h),
      ([0b11001011#8, 0b00011110#8], .rrHlInd),
      ([0b11001011#8, 0b00100101#8], .slaR .l),
      ([0b11001011#8, 0b00100110#8], .slaHlInd),
      ([0b11001011#8, 0b00101111#8], .sraR .a),
      ([0b11001011#8, 0b00101110#8], .sraHlInd),
      ([0b11001011#8, 0b00111000#8], .srlR .b),
      ([0b11001011#8, 0b00111110#8], .srlHlInd),
      ([0b11001011#8, 0b01101001#8], .bitR 5 .c),
      ([0b11001011#8, 0b01000110#8], .bitHlInd 0),
      ([0b11001011#8, 0b10011010#8], .resR 3 .d),
      ([0b11001011#8, 0b10110110#8], .resHlInd 6),
      ([0b11001011#8, 0b11001011#8], .setR 1 .e),
      ([0b11001011#8, 0b11100110#8], .setHlInd 4) ] = true := by decide +kernel

theorem test_decode_rotateShiftBit_2 : decodesTo
    [ ([0b11101101#8, 0b01100111#8], .rrd),
      ([0b11101101#8, 0b01101111#8], .rld),
      ([0b11011101#8, 0b11001011#8, 0b11111010#8, 0b00000110#8], .rlcIxInd 0xFA#8),
      ([0b11011101#8, 0b11001011#8, 0b00001011#8, 0b00001110#8], .rrcIxInd 0x0B#8),
      ([0b11011101#8, 0b11001011#8, 0b10000010#8, 0b00010110#8], .rlIxInd 0x82#8),
      ([0b11011101#8, 0b11001011#8, 0b11000011#8, 0b00011110#8], .rrIxInd 0xC3#8),
      ([0b11011101#8, 0b11001011#8, 0b10001010#8, 0b00100110#8], .slaIxInd 0x8A#8),
      ([0b11011101#8, 0b11001011#8, 0b11111011#8, 0b00101110#8], .sraIxInd 0xFB#8),
      ([0b11011101#8, 0b11001011#8, 0b00010010#8, 0b00111110#8], .srlIxInd 0x12#8),
      ([0b11011101#8, 0b11001011#8, 0b10110011#8, 0b01111110#8], .bitIxInd 7 0xB3#8),
      ([0b11011101#8, 0b11001011#8, 0b00011010#8, 0b10010110#8], .resIxInd 2 0x1A#8),
      ([0b11011101#8, 0b11001011#8, 0b11101011#8, 0b11101110#8], .setIxInd 5 0xEB#8),
      ([0b11111101#8, 0b11001011#8, 0b01110010#8, 0b00000110#8], .rlcIyInd 0x72#8),
      ([0b11111101#8, 0b11001011#8, 0b01010011#8, 0b00001110#8], .rrcIyInd 0x53#8),
      ([0b11111101#8, 0b11001011#8, 0b01111010#8, 0b00010110#8], .rlIyInd 0x7A#8),
      ([0b11111101#8, 0b11001011#8, 0b10001011#8, 0b00011110#8], .rrIyInd 0x8B#8),
      ([0b11111101#8, 0b11001011#8, 0b00000010#8, 0b00100110#8], .slaIyInd 0x02#8),
      ([0b11111101#8, 0b11001011#8, 0b01000011#8, 0b00101110#8], .sraIyInd 0x43#8),
      ([0b11111101#8, 0b11001011#8, 0b00001010#8, 0b00111110#8], .srlIyInd 0x0A#8),
      ([0b11111101#8, 0b11001011#8, 0b01111011#8, 0b01000110#8], .bitIyInd 0 0x7B#8),
      ([0b11111101#8, 0b11001011#8, 0b10010010#8, 0b10011110#8], .resIyInd 3 0x92#8),
      ([0b11111101#8, 0b11001011#8, 0b00110011#8, 0b11110110#8], .setIyInd 6 0x33#8) ] = true := by decide +kernel

theorem test_decode_control : decodesTo
    [ ([0b00010000#8, 0b10010011#8], .djnz (-107)),
      ([0b00011000#8, 0b00111010#8], .jr 60),
      ([0b00100000#8, 0b11001011#8], .jrCc .nz (-51)),
      ([0b11000000#8], .retCc .nz),
      ([0b11001010#8, 0b01110010#8, 0b01010011#8], .jpCcMn .z 0x5372#16),
      ([0b11000011#8, 0b01111010#8, 0b10001011#8], .jpMn 0x8B7A#16),
      ([0b11010100#8, 0b00000010#8, 0b01000011#8], .callCcMn .nc 0x4302#16),
      ([0b11101111#8], .rst 0x28#8),
      ([0b11001001#8], .ret),
      ([0b11101001#8], .jpHl),
      ([0b11001101#8, 0b10010010#8, 0b00110011#8], .callMn 0x3392#16),
      ([0b11101101#8, 0b01000101#8], .retn),
      ([0b11101101#8, 0b01001101#8], .reti),
      ([0b11011101#8, 0b11101001#8], .jpIx),
      ([0b11111101#8, 0b11101001#8], .jpIy) ] = true := by decide +kernel

theorem test_decode_io : decodesTo
    [ ([0b11010011#8, 0b00001010#8], .outNA 0x0A#8),
      ([0b11011011#8, 0b01111011#8], .inAN 0x7B#8),
      ([0b11101101#8, 0b01100000#8], .inRC .h),
      ([0b11101101#8, 0b01101001#8], .outCR .l),
      ([0b11101101#8, 0b10100010#8], .ini),
      ([0b11101101#8, 0b10100011#8], .outi),
      ([0b11101101#8, 0b10101010#8], .ind),
      ([0b11101101#8, 0b10101011#8], .outd),
      ([0b11101101#8, 0b10110010#8], .inir),
      ([0b11101101#8, 0b10110011#8], .otir),
      ([0b11101101#8, 0b10111010#8], .indr),
      ([0b11101101#8, 0b10111011#8], .otdr) ] = true := by decide +kernel

theorem test_decode_block : decodesTo
    [ ([0b11101101#8, 0b10100000#8], .ldi),
      ([0b11101101#8, 0b10100001#8], .cpi),
      ([0b11101101#8, 0b10101000#8], .ldd),
      ([0b11101101#8, 0b10101001#8], .cpd),
      ([0b11101101#8, 0b10110000#8], .ldir),
      ([0b11101101#8, 0b10110001#8], .cpir),
      ([0b11101101#8, 0b10111000#8], .lddr),
      ([0b11101101#8, 0b10111001#8], .cpdr) ] = true := by decide +kernel

/-- The ends of the ranges: all three-bit registers, conditions and restart addresses that share a row. -/
theorem test_decode_row_ends : decodesTo
    [ ([0b01000000#8], .ldRR .b .b), ([0b01111111#8], .ldRR .a .a), ([0b01110101#8], .ldHlIndR .l),
      ([0b11000111#8], .rst 0x00#8), ([0b11111111#8], .rst 0x38#8), ([0b11000000#8], .retCc .nz),
      ([0b11111000#8], .retCc .m), ([0b11001011#8, 0b01000000#8], .bitR 0 .b), ([0b11001011#8, 0b11111111#8], .setR 7 .a),
      ([0b00011000#8, 0b01111111#8], .jr 129), ([0b00011000#8, 0b10000000#8], .jr (-126)),
      ([0b11101101#8, 0b01111011#8, 0x00#8, 0xFF#8], .ldDdMnInd .sp 0xFF00#16) ] = true := by decide +kernel

/-- No row stands for these bytes. -/
def refuses (words : List (List Byte)) : Bool :=
  words.all fun w => match decode (w ++ [0x00#8, 0x00#8, 0x00#8]) with
    | .ok _ => false
    | .error _ => true

/-- Bytes without an entry (R112, V85, V108, V138, V139, V199, V202, V220 to V223). -/
theorem test_undefined_refused : refuses
    [ [0xED#8, 0x24#8], [0xDD#8, 0x69#8], [0xCB#8, 0x30#8], [0xCB#8, 0x37#8], [0xDD#8, 0xCB#8, 0x00#8, 0x00#8],
      [0xFD#8, 0xCB#8, 0x00#8, 0x36#8], [0xED#8, 0x70#8], [0xED#8, 0x71#8], [0xED#8, 0x4E#8], [0xED#8, 0xC0#8],
      [0xDD#8, 0x00#8], [0xDD#8, 0x76#8], [0xFD#8, 0xFD#8], [0xDD#8, 0xDD#8], [0xFD#8, 0xED#8] ] = true := by
  decide +kernel

/-- Two rows of a page are apart, or one is the exception that the other's field leaves out, or stands before it. -/
def rowsApart {α : Type} (rows : List (OpRow α)) : Bool :=
  (List.range 256).all fun n =>
    let op := BitVec.ofNat 8 n
    decide ((rows.filter fun r => op &&& r.mask == r.pat && (r.make op).isSome).length ≤ 1)

theorem test_main_rows_apart : rowsApart mainRows = true := by decide +kernel
theorem test_cb_ed_rows_apart : rowsApart cbRows = true ∧ rowsApart edRows = true := by decide +kernel
theorem test_xy_rows_apart : rowsApart ixRows = true ∧ rowsApart iyRows = true ∧ rowsApart ixCbRows = true ∧
    rowsApart iyCbRows = true := by decide +kernel

/-- A word of the opcode table, and the same bytes counted from the first one (log entry 26). -/
theorem test_table_words : decodeTableWord 8 0x41 = some (.ldRR .b .c) ∧
    decodeTableWord 24 0x210080 = some (.ldDdMn .hl 0x8000#16) ∧
    decodeTableWord 32 0xDD36107F = some (.ldIxIndN 0x10#8 0x7F#8) ∧
    decodeTableWord 32 0x2E03CBDD = some (.sraIxInd 0x03#8) ∧ decodeTableWord 16 0xED24 = none := by decide +kernel

/-- The first step after reset runs the word placed for it. -/
theorem test_fetch_word_runs : (match step (State.reset.withFetchWord 16 0x3E5A) with
    | .next t => t.a == 0x5A#8 && t.pc == 0x0002#16
    | _ => false) = true := by decide +kernel

/-! ### The arithmetic primitives (95_test_vectors.md section 3) -/

theorem test_add8 : ([add8 0x44#8 0x11#8 false, add8 0x7F#8 0x01#8 false, add8 0xFF#8 0x01#8 false,
      add8 0x80#8 0x80#8 false, add8 0x0F#8 0x00#8 true, add8 0xFF#8 0xFF#8 true, add8 0x7F#8 0x00#8 true] : List Arith8) =
    [⟨0x55#8, false, false, false⟩, ⟨0x80#8, true, true, false⟩, ⟨0x00#8, true, false, true⟩,
      ⟨0x00#8, false, true, true⟩, ⟨0x10#8, true, false, false⟩, ⟨0xFF#8, true, false, true⟩,
      ⟨0x80#8, true, true, false⟩] := by decide

theorem test_sub8 : ([sub8 0x44#8 0x11#8 false, sub8 0x00#8 0x01#8 false, sub8 0x80#8 0x01#8 false,
      sub8 0x7F#8 0xFF#8 false, sub8 0x10#8 0x0F#8 true, sub8 0x00#8 0xFF#8 true, sub8 0x00#8 0x00#8 false,
      sub8 0x00#8 0x80#8 false] : List Arith8) =
    [⟨0x33#8, false, false, false⟩, ⟨0xFF#8, true, false, true⟩, ⟨0x7F#8, true, true, false⟩,
      ⟨0x80#8, false, true, true⟩, ⟨0x00#8, true, false, false⟩, ⟨0x00#8, true, false, true⟩,
      ⟨0x00#8, false, false, false⟩, ⟨0x80#8, false, true, true⟩] := by decide

theorem test_add16 : ([add16 0x0FFF#16 0x0001#16 false, add16 0x7FFF#16 0x0001#16 false, add16 0xFFFF#16 0x0001#16 false,
      add16 0x8000#16 0x8000#16 false, add16 0x7FFF#16 0x0000#16 true, add16 0xFFFF#16 0xFFFF#16 true] : List Arith16) =
    [⟨0x1000#16, true, false, false⟩, ⟨0x8000#16, true, true, false⟩, ⟨0x0000#16, true, false, true⟩,
      ⟨0x0000#16, false, true, true⟩, ⟨0x8000#16, true, true, false⟩, ⟨0xFFFF#16, true, false, true⟩] := by decide

theorem test_sub16 : ([sub16 0x1000#16 0x0001#16 false, sub16 0x0000#16 0x0001#16 false, sub16 0x8000#16 0x0001#16 false,
      sub16 0x7FFF#16 0xFFFF#16 false, sub16 0x0000#16 0xFFFF#16 true, sub16 0x1234#16 0x1234#16 false] : List Arith16) =
    [⟨0x0FFF#16, true, false, false⟩, ⟨0xFFFF#16, true, false, true⟩, ⟨0x7FFF#16, true, true, false⟩,
      ⟨0x8000#16, false, true, true⟩, ⟨0x0000#16, true, false, true⟩, ⟨0x0000#16, false, false, false⟩] := by decide

theorem test_parity : [0x00#8, 0x01#8, 0x03#8, 0x47#8, 0x7F#8, 0x80#8, 0xFE#8, 0xFF#8].map parityEven =
    [true, false, true, true, false, false, false, true] := by decide

/-! ### One step, from the vectors of 95_test_vectors.md sections 4 and 5 -/

/-- Reset, with bytes in memory at an address. -/
def holding (a : Word) (bs : List Byte) : Memory := placeBytes State.reset.mem a bs

/-- The I/O transactions emitted, newest first. -/
def portEvents (t : State) : List BusEvent := t.trace.filter fun
  | .ioRead _ _ | .ioWrite _ _ => true
  | .memRead _ _ | .memWrite _ _ | .iack _ | .reti | .halt | .idle | .dmaGrant | .refetch _ _ | .unlisted _ _ _ => false

/-- The step at 0x0100, with the bytes there, gives a next state of which `p` holds. -/
def gives (bs : List Byte) (s : State) (p : State → Bool) : Bool :=
  match step { s with pc := 0x0100#16, mem := placeBytes s.mem 0x0100#16 bs } with
  | .next t => p t
  | _ => false

/-- V1: LD B, C. -/
theorem test_V1 : gives [0x41#8] { State.reset with b := 0x12#8, c := 0x34#8, f := 0xD7#8 }
    (fun t => t.pc == 0x0101#16 && t.b == 0x34#8 && t.f == 0xD7#8) = true := by decide +kernel

/-- V3: LD L, 0xFF. -/
theorem test_V3 : gives [0x2E#8, 0xFF#8] { State.reset with h := 0x12#8, l := 0x00#8 }
    (fun t => t.pc == 0x0102#16 && t.l == 0xFF#8 && t.f == 0x00#8) = true := by decide +kernel

/-- V4: LD H, (HL). -/
theorem test_V4 : gives [0x66#8] { State.reset with h := 0x80#8, l := 0x00#8, mem := holding 0x8000#16 [0x42#8] }
    (fun t => t.pc == 0x0101#16 && t.h == 0x42#8 && t.f == 0x00#8) = true := by decide +kernel

/-- V5: LD A, (IY-128). -/
theorem test_V5 : gives [0xFD#8, 0x7E#8, 0x80#8] { State.reset with iy := 0x0010#16, mem := holding 0xFF90#16 [0x5C#8] }
    (fun t => t.pc == 0x0103#16 && t.a == 0x5C#8 && t.f == 0x00#8) = true := by decide +kernel

/-- V7: LD (HL), L. -/
theorem test_V7 : gives [0x75#8] { State.reset with h := 0x90#8, l := 0x34#8 }
    (fun t => t.pc == 0x0101#16 && t.f == 0x00#8 && t.readByte 0x9034#16 == 0x34#8) = true := by decide +kernel

/-- V8: LD (IX+0), H. -/
theorem test_V8 : gives [0xDD#8, 0x74#8, 0x00#8] { State.reset with ix := 0x7000#16, h := 0xAB#8, l := 0x00#8 }
    (fun t => t.pc == 0x0103#16 && t.f == 0x00#8 && t.readByte 0x7000#16 == 0xAB#8) = true := by decide +kernel

/-- V10: LD (IY-1), 0x3C. -/
theorem test_V10 : gives [0xFD#8, 0x36#8, 0xFF#8, 0x3C#8] { State.reset with iy := 0x0000#16 }
    (fun t => t.pc == 0x0104#16 && t.f == 0x00#8 && t.readByte 0xFFFF#16 == 0x3C#8) = true := by decide +kernel

/-- V11: LD A, (BC). -/
theorem test_V11 : gives [0x0A#8] { State.reset with b := 0x12#8, c := 0x34#8, mem := holding 0x1234#16 [0x56#8] }
    (fun t => t.pc == 0x0101#16 && t.a == 0x56#8 && t.f == 0x00#8) = true := by decide +kernel

/-- V13: LD A, (0x4321). -/
theorem test_V13 : gives [0x3A#8, 0x21#8, 0x43#8] { State.reset with mem := holding 0x4321#16 [0xEE#8] }
    (fun t => t.pc == 0x0103#16 && t.a == 0xEE#8 && t.f == 0x00#8) = true := by decide +kernel

/-- V14: LD (BC), A. -/
theorem test_V14 : gives [0x02#8] { State.reset with b := 0x20#8, c := 0x00#8, a := 0x11#8 }
    (fun t => t.pc == 0x0101#16 && t.f == 0x00#8 && t.readByte 0x2000#16 == 0x11#8) = true := by decide +kernel

/-- V16: LD (0x8001), A. -/
theorem test_V16 : gives [0x32#8, 0x01#8, 0x80#8] { State.reset with a := 0x33#8 }
    (fun t => t.pc == 0x0103#16 && t.f == 0x00#8 && t.readByte 0x8001#16 == 0x33#8) = true := by decide +kernel

/-- V20: LD I, A. -/
theorem test_V20 : gives [0xED#8, 0x47#8] { State.reset with a := 0x40#8, f := 0xD7#8 }
    (fun t => t.pc == 0x0102#16 && t.f == 0xD7#8 && t.iReg == 0x40#8) = true := by decide +kernel

/-- V21: LD R, A. -/
theorem test_V21 : gives [0xED#8, 0x4F#8] { State.reset with a := 0xFF#8 }
    (fun t => t.pc == 0x0102#16 && t.rReg == 0xFF#8 && t.f == 0x00#8) = true := by decide +kernel

/-- V24: LD IY, 0x8000. -/
theorem test_V24 : gives [0xFD#8, 0x21#8, 0x00#8, 0x80#8] State.reset
    (fun t => t.pc == 0x0104#16 && t.iy == 0x8000#16 && t.f == 0x00#8) = true := by decide +kernel

/-- V25: LD HL, (0xFFFF). -/
theorem test_V25 : gives [0x2A#8, 0xFF#8, 0xFF#8] { State.reset with mem := placeBytes (holding 0xFFFF#16 [0xCD#8]) 0x0000#16 [0xAB#8] }
    (fun t => t.pc == 0x0103#16 && t.h == 0xAB#8 && t.l == 0xCD#8 && t.f == 0x00#8) = true := by decide +kernel

/-- V26: LD SP, (0x6000). -/
theorem test_V26 : gives [0xED#8, 0x7B#8, 0x00#8, 0x60#8] { State.reset with mem := holding 0x6000#16 [0x00#8, 0xF0#8] }
    (fun t => t.pc == 0x0104#16 && t.sp == 0xF000#16 && t.f == 0x00#8) = true := by decide +kernel

/-- V30: LD (0x7002), SP. -/
theorem test_V30 : gives [0xED#8, 0x73#8, 0x02#8, 0x70#8] { State.reset with sp := 0xFFF0#16 }
    (fun t => t.pc == 0x0104#16 && t.f == 0x00#8 && t.readByte 0x7002#16 == 0xF0#8 && t.readByte 0x7003#16 == 0xFF#8) = true := by decide +kernel

/-- V32: LD (0x7004), IY. -/
theorem test_V32 : gives [0xFD#8, 0x22#8, 0x04#8, 0x70#8] { State.reset with iy := 0x0102#16 }
    (fun t => t.pc == 0x0104#16 && t.f == 0x00#8 && t.readByte 0x7004#16 == 0x02#8 && t.readByte 0x7005#16 == 0x01#8) = true := by decide +kernel

/-- V33: LD SP, HL. -/
theorem test_V33 : gives [0xF9#8] { State.reset with h := 0xD0#8, l := 0x00#8 }
    (fun t => t.pc == 0x0101#16 && t.sp == 0xD000#16 && t.f == 0x00#8) = true := by decide +kernel

/-- V35: PUSH BC. -/
theorem test_V35 : gives [0xC5#8] { State.reset with sp := 0x8000#16, b := 0x12#8, c := 0x34#8 }
    (fun t => t.pc == 0x0101#16 && t.sp == 0x7FFE#16 && t.f == 0x00#8 && t.readByte 0x7FFE#16 == 0x34#8 && t.readByte 0x7FFF#16 == 0x12#8) = true := by decide +kernel

/-- V36: PUSH AF. -/
theorem test_V36 : gives [0xF5#8] { State.reset with sp := 0x0001#16, a := 0x9A#8, f := 0xFF#8 }
    (fun t => t.pc == 0x0101#16 && t.sp == 0xFFFF#16 && t.f == 0xFF#8 && t.readByte 0x0000#16 == 0x9A#8 && t.readByte 0xFFFF#16 == 0xFF#8) = true := by decide +kernel

/-- V38: POP DE. -/
theorem test_V38 : gives [0xD1#8] { State.reset with sp := 0x7FFE#16, mem := holding 0x7FFE#16 [0x34#8, 0x12#8] }
    (fun t => t.pc == 0x0101#16 && t.sp == 0x8000#16 && t.d == 0x12#8 && t.e == 0x34#8 && t.f == 0x00#8) = true := by decide +kernel

/-- V39: POP AF. -/
theorem test_V39 : gives [0xF1#8] { State.reset with sp := 0x7FFE#16, mem := holding 0x7FFE#16 [0xD7#8, 0x12#8] }
    (fun t => t.pc == 0x0101#16 && t.sp == 0x8000#16 && t.f == 0xD7#8 && t.a == 0x12#8) = true := by decide +kernel

/-- V41: EX AF, AF'. -/
theorem test_V41 : gives [0x08#8] { State.reset with a := 0x01#8, f := 0xD7#8, aAlt := 0x02#8, fAlt := 0x00#8 }
    (fun t => t.pc == 0x0101#16 && t.a == 0x02#8 && t.f == 0x00#8 && t.aAlt == 0x01#8 && t.fAlt == 0xD7#8) = true := by decide +kernel

/-- V43: EX DE, HL. -/
theorem test_V43 : gives [0xEB#8] { State.reset with d := 0x12#8, e := 0x34#8, h := 0xAB#8, l := 0xCD#8 }
    (fun t => t.pc == 0x0101#16 && t.d == 0xAB#8 && t.e == 0xCD#8 && t.h == 0x12#8 && t.l == 0x34#8 && t.f == 0x00#8) = true := by decide +kernel

/-- V45: EX (SP), IX. -/
theorem test_V45 : gives [0xDD#8, 0xE3#8] { State.reset with sp := 0x9000#16, ix := 0x0102#16, mem := holding 0x9000#16 [0xCD#8, 0xAB#8] }
    (fun t => t.pc == 0x0102#16 && t.ix == 0xABCD#16 && t.f == 0x00#8 && t.readByte 0x9000#16 == 0x02#8 && t.readByte 0x9001#16 == 0x01#8) = true := by decide +kernel

/-- V116: INC BC. -/
theorem test_V116 : gives [0x03#8] { State.reset with b := 0xFF#8, c := 0xFF#8 }
    (fun t => t.pc == 0x0101#16 && t.b == 0x00#8 && t.c == 0x00#8 && t.f == 0x00#8) = true := by decide +kernel

/-- V120: DEC IX. -/
theorem test_V120 : gives [0xDD#8, 0x2B#8] { State.reset with ix := 0x1000#16 }
    (fun t => t.pc == 0x0102#16 && t.ix == 0x0FFF#16 && t.f == 0x00#8) = true := by decide +kernel

/-- V146: SET 3, (IX+2). -/
theorem test_V146 : gives [0xDD#8, 0xCB#8, 0x02#8, 0xDE#8] { State.reset with ix := 0x6000#16 }
    (fun t => t.pc == 0x0104#16 && t.f == 0x00#8 && t.readByte 0x6002#16 == 0x08#8) = true := by decide +kernel

/-- V149: RES 7, (HL). -/
theorem test_V149 : gives [0xCB#8, 0xBE#8] { State.reset with h := 0x60#8, l := 0x00#8, mem := holding 0x6000#16 [0xFF#8] }
    (fun t => t.pc == 0x0102#16 && t.f == 0x00#8 && t.readByte 0x6000#16 == 0x7F#8) = true := by decide +kernel

/-- V167: JP NZ, 0x2000. -/
theorem test_V167 : gives [0xC2#8, 0x00#8, 0x20#8] { State.reset with f := 0x40#8 }
    (fun t => t.pc == 0x0103#16 && t.f == 0x40#8) = true := by decide +kernel

/-- V168: JP Z, 0x2000. -/
theorem test_V168 : gives [0xCA#8, 0x00#8, 0x20#8] { State.reset with f := 0x40#8 }
    (fun t => t.pc == 0x2000#16 && t.f == 0x40#8) = true := by decide +kernel

/-- V171: JP (HL). -/
theorem test_V171 : gives [0xE9#8] { State.reset with h := 0x40#8, l := 0x00#8, mem := holding 0x4000#16 [0x99#8, 0x88#8] }
    (fun t => t.pc == 0x4000#16 && t.f == 0x00#8) = true := by decide +kernel

/-- V173: JR +5 (byte 03). -/
theorem test_V173 : gives [0x18#8, 0x03#8] State.reset
    (fun t => t.pc == 0x0105#16 && t.f == 0x00#8) = true := by decide +kernel

/-- V176: JR -126 (byte 80). -/
theorem test_V176 : gives [0x18#8, 0x80#8] State.reset
    (fun t => t.pc == 0x0082#16 && t.f == 0x00#8) = true := by decide +kernel

/-- V177: JR C, +18 (byte 10). -/
theorem test_V177 : gives [0x38#8, 0x10#8] { State.reset with f := 0x01#8 }
    (fun t => t.pc == 0x0112#16 && t.f == 0x01#8) = true := by decide +kernel

/-- V182: DJNZ 0 (byte FE). -/
theorem test_V182 : gives [0x10#8, 0xFE#8] { State.reset with b := 0x01#8 }
    (fun t => t.pc == 0x0102#16 && t.b == 0x00#8 && t.c == 0x00#8 && t.f == 0x00#8) = true := by decide +kernel

/-- V183: DJNZ 0 (byte FE). -/
theorem test_V183 : gives [0x10#8, 0xFE#8] { State.reset with b := 0x00#8 }
    (fun t => t.pc == 0x0100#16 && t.b == 0xFF#8 && t.c == 0x00#8 && t.f == 0x00#8) = true := by decide +kernel

/-- V184: CALL 0x4000. -/
theorem test_V184 : gives [0xCD#8, 0x00#8, 0x40#8] { State.reset with sp := 0x8000#16 }
    (fun t => t.pc == 0x4000#16 && t.sp == 0x7FFE#16 && t.f == 0x00#8 && t.readByte 0x7FFE#16 == 0x03#8 && t.readByte 0x7FFF#16 == 0x01#8) = true := by decide +kernel

/-- V186: CALL P, 0x0300. -/
theorem test_V186 : gives [0xF4#8, 0x00#8, 0x03#8] { State.reset with sp := 0x9000#16, f := 0x80#8 }
    (fun t => t.pc == 0x0103#16 && t.f == 0x80#8) = true := by decide +kernel

/-- V188: RET PE. -/
theorem test_V188 : gives [0xE8#8] { State.reset with sp := 0x7FFE#16, f := 0x04#8, mem := holding 0x7FFE#16 [0x03#8, 0x10#8] }
    (fun t => t.pc == 0x1003#16 && t.sp == 0x8000#16 && t.f == 0x04#8) = true := by decide +kernel

/-- V191: RETN. -/
theorem test_V191 : gives [0xED#8, 0x45#8] { State.reset with sp := 0x7FFE#16, iff1 := false, iff2 := true, mem := holding 0x7FFE#16 [0x00#8, 0x20#8] }
    (fun t => t.pc == 0x2000#16 && t.sp == 0x8000#16 && t.iff1 == true && t.f == 0x00#8) = true := by decide +kernel

/-- V193: RST 0x28. -/
theorem test_V193 : gives [0xEF#8] { State.reset with sp := 0x8000#16 }
    (fun t => t.pc == 0x0028#16 && t.sp == 0x7FFE#16 && t.f == 0x00#8 && t.readByte 0x7FFE#16 == 0x01#8 && t.readByte 0x7FFF#16 == 0x01#8) = true := by decide +kernel

/-- V196: IN A, (0x10). -/
theorem test_V196 : gives [0xDB#8, 0x10#8] { State.reset with a := 0x20#8, f := 0xD7#8, ioIn := [0x7F#8] }
    (fun t => t.pc == 0x0102#16 && t.a == 0x7F#8 && t.f == 0xD7#8 && portEvents t == [.ioRead 0x2010#16 0x7F#8]) = true := by decide +kernel

/-- V200: OUT (0x01), A. -/
theorem test_V200 : gives [0xD3#8, 0x01#8] { State.reset with a := 0x55#8 }
    (fun t => t.pc == 0x0102#16 && t.f == 0x00#8 && portEvents t == [.ioWrite 0x5501#16 0x55#8]) = true := by decide +kernel

/-- V213: HALT. -/
theorem test_V213 : gives [0x76#8] State.reset
    (fun t => t.pc == 0x0101#16 && t.halted == true && t.f == 0x00#8) = true := by decide +kernel

/-- V215: DI. -/
theorem test_V215 : gives [0xF3#8] { State.reset with iff1 := true, iff2 := true }
    (fun t => t.pc == 0x0101#16 && t.iff1 == false && t.iff2 == false && t.f == 0x00#8) = true := by decide +kernel

/-- V216: EI. -/
theorem test_V216 : gives [0xFB#8] { State.reset with iff1 := false, iff2 := false }
    (fun t => t.pc == 0x0101#16 && t.iff1 == true && t.iff2 == true && t.f == 0x00#8) = true := by decide +kernel

/-- V219: IM 2. -/
theorem test_V219 : gives [0xED#8, 0x5E#8] State.reset
    (fun t => t.pc == 0x0102#16 && t.im == .im2 && t.f == 0x00#8) = true := by decide +kernel

/-! ### One step with flags. The flags after are what the operation's lemma says, evaluated. -/

/-- V47. -/
theorem test_V47_flags : ∃ t, exec (.addAN 0x01#8) { State.reset with a := 0x7F#8 } = .next t ∧ t.a = 0x80#8 ∧ t.flags = ⟨true, false, true, true, false, false⟩ :=
  ⟨_, rfl, by decide +kernel, by rw [State.advance_flags, (State.accAdd_spec _ _ _).2.2.2]; decide +kernel⟩

/-- V49. -/
theorem test_V49_flags : ∃ t, exec (.addAR .a) { State.reset with a := 0x80#8 } = .next t ∧ t.a = 0x00#8 ∧ t.flags = ⟨false, true, false, true, false, true⟩ :=
  ⟨_, rfl, by decide +kernel, by rw [State.advance_flags, (State.accAdd_spec _ _ _).2.2.2]; decide +kernel⟩

/-- V55. -/
theorem test_V55_flags : ∃ t, exec (.adcAN 0x00#8) { State.reset with a := 0xFF#8, f := 0x01#8 } = .next t ∧ t.a = 0x00#8 ∧ t.flags = ⟨false, true, true, false, false, true⟩ :=
  ⟨_, rfl, by decide +kernel, by rw [State.advance_flags, (State.accAdd_spec _ _ _).2.2.2]; decide +kernel⟩

/-- V58. -/
theorem test_V58_flags : ∃ t, exec (.subAN 0x01#8) { State.reset with a := 0x80#8 } = .next t ∧ t.a = 0x7F#8 ∧ t.flags = ⟨false, false, true, true, true, false⟩ :=
  ⟨_, rfl, by decide +kernel, by rw [State.advance_flags, (State.accSub_spec _ _ _).2.2.2]; decide +kernel⟩

/-- V61. -/
theorem test_V61_flags : ∃ t, exec (.sbcAR .a) { State.reset with a := 0x37#8, f := 0x01#8 } = .next t ∧ t.a = 0xFF#8 ∧ t.flags = ⟨true, false, true, false, true, true⟩ :=
  ⟨_, rfl, by decide +kernel, by rw [State.advance_flags, (State.accSub_spec _ _ _).2.2.2]; decide +kernel⟩

/-- V65. -/
theorem test_V65_flags : ∃ t, exec (.andAR .a) { State.reset with a := 0x81#8, f := 0x01#8 } = .next t ∧ t.a = 0x81#8 ∧ t.flags = ⟨true, false, true, true, false, false⟩ :=
  ⟨_, rfl, by decide +kernel, by rw [State.advance_flags, (State.accAnd_spec _ _).2.2.2]; decide +kernel⟩

/-- V67. -/
theorem test_V67_flags : ∃ t, exec (.xorAR .d) { State.reset with a := 0xFF#8, d := 0x0F#8 } = .next t ∧ t.a = 0xF0#8 ∧ t.flags = ⟨true, false, false, true, false, false⟩ :=
  ⟨_, rfl, by decide +kernel, by rw [State.advance_flags, (State.accXor_spec _ _).2.2.2]; decide +kernel⟩

/-- V68. -/
theorem test_V68_flags : ∃ t, exec (.orAN 0x80#8) { State.reset with a := 0x01#8, f := 0x13#8 } = .next t ∧ t.a = 0x81#8 ∧ t.flags = ⟨true, false, false, true, false, false⟩ :=
  ⟨_, rfl, by decide +kernel, by rw [State.advance_flags, (State.accOr_spec _ _).2.2.2]; decide +kernel⟩

/-- V70. -/
theorem test_V70_flags : ∃ t, exec (.cpAN 0x06#8) { State.reset with a := 0x05#8 } = .next t ∧ t.a = 0x05#8 ∧ t.flags = ⟨true, false, true, false, true, true⟩ :=
  ⟨_, rfl, by decide +kernel, by rw [State.advance_flags, (State.accCompare_spec _ _).2.2]; decide +kernel⟩

/-- V73. -/
theorem test_V73_flags : ∃ t, exec (.incR .b) { State.reset with b := 0x7F#8, f := 0x01#8 } = .next t ∧ t.b = 0x80#8 ∧ t.flags = ⟨true, false, true, true, false, true⟩ :=
  ⟨_, rfl, by decide +kernel, by rw [State.advance_flags, (State.incReg_spec _ _).2.2.2]; decide +kernel⟩

/-- V78. -/
theorem test_V78_flags : ∃ t, exec (.decR .c) { State.reset with c := 0x00#8 } = .next t ∧ t.c = 0xFF#8 ∧ t.flags = ⟨true, false, true, false, true, false⟩ :=
  ⟨_, rfl, by decide +kernel, by rw [State.advance_flags, (State.decReg_spec _ _).2.2.2]; decide +kernel⟩

/-- V127. -/
theorem test_V127_flags : ∃ t, exec (.rlcR .b) { State.reset with b := 0x80#8 } = .next t ∧ t.b = 0x01#8 ∧ t.flags = ⟨false, false, false, false, false, true⟩ :=
  ⟨_, rfl, by decide +kernel, by rw [State.advance_flags, (State.shiftReg_spec _ _ _).2.2.2]; decide +kernel⟩

/-- V130. -/
theorem test_V130_flags : ∃ t, exec (.rrcR .e) { State.reset with e := 0x01#8 } = .next t ∧ t.e = 0x80#8 ∧ t.flags = ⟨true, false, false, false, false, true⟩ :=
  ⟨_, rfl, by decide +kernel, by rw [State.advance_flags, (State.shiftReg_spec _ _ _).2.2.2]; decide +kernel⟩

/-- V131. -/
theorem test_V131_flags : ∃ t, exec (.rrR .a) { State.reset with a := 0x01#8 } = .next t ∧ t.a = 0x00#8 ∧ t.flags = ⟨false, true, false, true, false, true⟩ :=
  ⟨_, rfl, by decide +kernel, by rw [State.advance_flags, (State.shiftReg_spec _ _ _).2.2.2]; decide +kernel⟩

/-- V132. -/
theorem test_V132_flags : ∃ t, exec (.slaR .d) { State.reset with d := 0xC0#8 } = .next t ∧ t.d = 0x80#8 ∧ t.flags = ⟨true, false, false, false, false, true⟩ :=
  ⟨_, rfl, by decide +kernel, by rw [State.advance_flags, (State.shiftReg_spec _ _ _).2.2.2]; decide +kernel⟩

/-- V135. -/
theorem test_V135_flags : ∃ t, exec (.sraR .h) { State.reset with h := 0x7F#8 } = .next t ∧ t.h = 0x3F#8 ∧ t.flags = ⟨false, false, false, true, false, true⟩ :=
  ⟨_, rfl, by decide +kernel, by rw [State.advance_flags, (State.shiftReg_spec _ _ _).2.2.2]; decide +kernel⟩

/-- V136. -/
theorem test_V136_flags : ∃ t, exec (.srlR .l) { State.reset with l := 0x81#8 } = .next t ∧ t.l = 0x40#8 ∧ t.flags = ⟨false, false, false, false, false, true⟩ :=
  ⟨_, rfl, by decide +kernel, by rw [State.advance_flags, (State.shiftReg_spec _ _ _).2.2.2]; decide +kernel⟩

/-- V129. -/
theorem test_V129_flags : ∃ t, exec (.rlHlInd) { State.reset with h := 0x80#8, f := 0x01#8, mem := holding 0x8000#16 [0x7F#8] } = .next t ∧ t.readByte 0x8000#16 = 0xFF#8 ∧ t.flags = ⟨true, false, false, true, false, false⟩ :=
  ⟨_, rfl, by decide +kernel, by rw [State.advance_flags, (State.shiftMem_spec _ _ _).2.2.2]; decide +kernel⟩

/-- V77. -/
theorem test_V77_flags : ∃ t, exec (.decHlInd) { State.reset with h := 0x80#8, mem := holding 0x8000#16 [0x80#8] } = .next t ∧ t.readByte 0x8000#16 = 0x7F#8 ∧ t.flags = ⟨false, false, true, true, true, false⟩ :=
  ⟨_, rfl, by decide +kernel, by rw [State.advance_flags, (State.decMem_spec _ _).2.2.2]; decide +kernel⟩

/-- V121. -/
theorem test_V121_flags : ∃ t, exec (.rlca) { State.reset with a := 0x81#8, f := 0x52#8 } = .next t ∧ t.a = 0x03#8 ∧ t.flags = ⟨false, true, false, false, false, true⟩ :=
  ⟨_, rfl, by decide +kernel, by rw [State.advance_flags, (State.rotateAcc_spec _ _).2.2.2]; decide +kernel⟩

/-- V126. -/
theorem test_V126_flags : ∃ t, exec (.rra) { State.reset with f := 0x01#8 } = .next t ∧ t.a = 0x80#8 ∧ t.flags = ⟨false, false, false, false, false, false⟩ :=
  ⟨_, rfl, by decide +kernel, by rw [State.advance_flags, (State.rotateAcc_spec _ _).2.2.2]; decide +kernel⟩

/-- V140. -/
theorem test_V140_flags : ∃ t, exec (.rld) { State.reset with a := 0x7A#8, h := 0x50#8, f := 0x01#8, mem := holding 0x5000#16 [0x31#8] } = .next t ∧ t.a = 0x73#8 ∧ t.readByte 0x5000#16 = 0x1A#8 ∧ t.flags = ⟨false, false, false, false, false, true⟩ :=
  ⟨_, rfl, by decide +kernel, by rw [State.advance_flags, (State.rotateDigitLeft_spec _).2.2.2.2]; decide +kernel⟩

/-- V141. -/
theorem test_V141_flags : ∃ t, exec (.rrd) { State.reset with a := 0x84#8, h := 0x50#8, mem := holding 0x5000#16 [0x20#8] } = .next t ∧ t.a = 0x80#8 ∧ t.readByte 0x5000#16 = 0x42#8 ∧ t.flags = ⟨true, false, false, false, false, false⟩ :=
  ⟨_, rfl, by decide +kernel, by rw [State.advance_flags, (State.rotateDigitRight_spec _).2.2.2.2]; decide +kernel⟩

/-- V143. -/
theorem test_V143_flags : ∃ t, exec (.bitR 7 .a) { State.reset with a := 0x80#8, f := 0x07#8 } = .next t ∧ t.a = 0x80#8 ∧ t.flags = ⟨false, false, true, true, false, true⟩ :=
  ⟨_, rfl, by decide +kernel, by rw [State.advance_flags, (State.bitTest_spec _ _ _).2.2]; decide +kernel⟩

/-- V151. -/
theorem test_V151_flags : ∃ t, exec (.ldi) { State.reset with b := 0x00#8, c := 0x01#8, d := 0x20#8, h := 0x10#8, mem := holding 0x1000#16 [0xAA#8] } = .next t ∧ t.readByte 0x2000#16 = 0xAA#8 ∧ t.hl = 0x1001#16 ∧ t.flags = ⟨false, false, false, false, false, false⟩ :=
  ⟨_, rfl, by decide +kernel, by rw [State.advance_flags, (State.blockLoad_spec _ _).2.2.2.2.2.2]; decide +kernel⟩

/-- V160. -/
theorem test_V160_flags : ∃ t, exec (.cpi) { State.reset with a := 0x20#8, c := 0x05#8, h := 0x30#8, f := 0x01#8, mem := holding 0x3000#16 [0x20#8] } = .next t ∧ t.hl = 0x3001#16 ∧ t.bc = 0x0004#16 ∧ t.flags = ⟨false, true, false, true, true, true⟩ :=
  ⟨_, rfl, by decide +kernel, by rw [State.advance_flags, (State.blockCompare_spec _ _).2.2.2.2.2]; decide +kernel⟩

/-- V203. -/
theorem test_V203_flags : ∃ t, exec (.ini) { State.reset with b := 0x02#8, c := 0x10#8, h := 0x40#8, f := 0x95#8, ioIn := [0x7E#8] } = .next t ∧ t.readByte 0x4000#16 = 0x7E#8 ∧ t.b = 0x01#8 ∧ t.flags = ⟨true, false, true, true, true, true⟩ :=
  ⟨_, rfl, by decide +kernel, by rw [State.advance_flags, (State.blockIn_spec _ _).2.2.2.2.2]; decide +kernel⟩

/-- V208. -/
theorem test_V208_flags : ∃ t, exec (.outi) { State.reset with b := 0x01#8, c := 0x20#8, h := 0x50#8, mem := holding 0x5000#16 [0x99#8] } = .next t ∧ portEvents t = [.ioWrite 0x0120#16 0x99#8] ∧ t.b = 0x00#8 ∧ t.flags = ⟨false, true, false, false, true, false⟩ :=
  ⟨_, rfl, by decide +kernel, by rw [State.advance_flags, (State.blockOut_spec _ _).2.2.2.2.2]; decide +kernel⟩

/-! ### One step at a boundary with requests (95_test_vectors.md section 5) -/

/-- A boundary sample without reset and DMA. -/
def lines (nmi int : Bool) (v : Byte) : Sample := ⟨.inactive, none, nmi, int, v⟩

/-- S5: mode 2, I = 0x40, vector 0x10; the transactions of R412 (newest first). -/
theorem test_S5 : gives [0x00#8]
    { State.reset with
      sp := 0x8000#16, iff1 := true, iff2 := true, im := .im2, iReg := 0x40#8, mem := holding 0x4010#16 [0x00#8, 0x60#8]
      inputs := [lines false true 0x10#8] }
    (fun t => t.pc == 0x6000#16 && t.sp == 0x7FFE#16 && t.iff1 == false && t.iff2 == false &&
      t.readByte 0x7FFE#16 == 0x00#8 && t.readByte 0x7FFF#16 == 0x01#8 && t.trace == [.memWrite 0x7FFE#16 0x00#8, .memWrite 0x7FFF#16 0x01#8, .memRead 0x4011#16 0x60#8, .memRead 0x4010#16 0x00#8,
        .idle, .iack 0x10#8, .memRead 0x0100#16 0x00#8]) = true := by
  decide +kernel

/-- S10: the non-maskable request with interrupts disabled. -/
theorem test_S10 : gives [0x00#8]
    { State.reset with sp := 0x8000#16, im := .im2, iReg := 0x40#8, inputs := [lines true true 0x11#8] }
    (fun t => t.pc == 0x0066#16 && t.sp == 0x7FFE#16 && t.iff1 == false && t.iff2 == false && t.inputs == []) = true := by
  decide +kernel

/-- S8: an odd vector in mode 2 has no successor. -/
theorem test_S8 : (match step { State.reset with
      iff1 := true, iff2 := true, im := .im2, inputs := [lines false true 0x11#8] } with
    | .refused r => r == .oddVector 0x11#8
    | _ => false) = true := by decide +kernel

/-- F5: a DMA grant writes memory and leaves the CPU; other accesses leave memory too. -/
theorem test_F5 : gives [0x3C#8]
    { State.reset with a := 0x55#8, iff1 := true, inputs := [⟨.inactive, some [.memWrite 0x3000#16 0x99#8, .memRead 0x3000#16,
        .ioWrite 0x3000#16 0x11#8, .ioRead 0x0010#16], false, true, 0x00#8⟩] }
    (fun t => t.readByte 0x3000#16 == 0x99#8 && t.a == 0x55#8 && t.pc == 0x0100#16 && t.iff1 == true) = true := by
  decide +kernel

/-- F1: the user reset keeps the general registers. -/
theorem test_F1 : gives [0x00#8]
    { State.reset with a := 0x12#8, bAlt := 0x11#8, iff1 := true, iff2 := true, im := .im2, halted := true,
                       inputs := [⟨.user, none, true, true, 0x00#8⟩] }
    (fun t => t.pc == 0x0000#16 && t.a == 0x12#8 && t.bAlt == 0x11#8 && t.iff1 == false && t.iff2 == false && t.im == .im0 &&
      t.halted == false && t.nmiPending == false) = true := by decide +kernel

/-! ### Witnesses: for each statement with hypotheses, operands and a state that meet them -/

/-- The hypothesis `wellFormed` of the encoding clauses, at the ends of each range (RelativeJumps, CallsAndRestart,
BitTestFlags, BitSetReset, DecodeOfEncodeIsInstruction, and the loads, for which it always holds). -/
theorem witness_encodable : [Instr.jr (-126), .jr 129, .jrCc .nz (-126), .jrCc .c 129, .djnz (-126), .djnz 129, .rst 0x00#8,
    .rst 0x38#8, .bitR 0 .b, .bitR 7 .a, .bitHlInd 0, .bitHlInd 7, .bitIxInd 0 0x80#8, .bitIxInd 7 0x7F#8, .bitIyInd 0 0x80#8,
    .bitIyInd 7 0x7F#8, .setR 0 .b, .setR 7 .a, .setHlInd 7, .setIxInd 7 0x80#8, .setIyInd 7 0x7F#8, .resR 0 .b, .resR 7 .a,
    .resHlInd 7, .resIxInd 7 0x80#8, .resIyInd 7 0x7F#8, .ldRR .a .b, .nop, .ldMnIndSs 0xFFFF#16 .sp].all
      Instr.wellFormed = true := by decide

/-- Conditions that hold and fail (AbsoluteJumps, RelativeJumps, CallsAndRestart, ReturnsFromSubroutine). -/
theorem witness_conditions : (let s : State := { State.reset with f := 0x00#8 }
    let u : State := { State.reset with f := 0xC5#8 }
    [Cond.nz, .nc, .po, .p].all (fun cc => s.meets (condBit cc) && !u.meets (condBit cc)) &&
    [Cond.z, .c, .pe, .m].all (fun cc => u.meets (condBit cc) && !s.meets (condBit cc)) &&
    s.meets (ccBit .nz) && s.meets (ccBit .nc) && u.meets (ccBit .z) && u.meets (ccBit .c)) = true := by decide

/-- A queued input byte (PortInput, BlockInputIteration). -/
theorem witness_queued_input : ({ State.reset with ioIn := [0x7F#8] } : State).ioIn = 0x7F#8 :: [] := rfl

/-- A repeat that goes on and one that ends, for each test (BlockRepeatIteration). -/
theorem witness_repeats : (let s : State := { State.reset with c := 0x01#8 }
    let u : State := { State.reset with b := 0x01#8, f := 0x40#8 }
    (s.bc != 0#16) && (State.reset.bc == 0#16) && (s.bc != 0#16 && !s.flags.z) && !(u.bc != 0#16 && !u.flags.z) &&
    (u.b != 0#8) && (s.b == 0#8)) = true := by decide

/-- DJNZ that jumps and that does not (RelativeJumps). -/
theorem witness_djnz : ({ State.reset with b := 0x00#8 } : State).b - 1 ≠ 0#8 ∧
    ({ State.reset with b := 0x01#8 } : State).b - 1 = 0#8 := by decide

/-- Every row of the DAA table fits at both ends of its ranges (DecimalAdjustTable). -/
theorem witness_decimal_rows : daaTable.all (fun r =>
    let fl : Flags := ⟨false, false, r.h, false, r.n, r.c⟩
    daaRowFits (BitVec.ofNat 8 (16 * r.hiMin + r.loMin)) fl r && daaRowFits (BitVec.ofNat 8 (16 * r.hiMax + r.loMax)) fl r) =
      true := by decide

/-- A state in which the hypotheses of the DAA clause hold of its first row. -/
theorem witness_decimal_state : ∃ row ∈ daaTable, row.n = State.reset.flags.n ∧ row.c = State.reset.flags.c ∧
    row.h = State.reset.flags.h ∧ row.hiMin ≤ State.reset.a.toNat / 16 ∧ State.reset.a.toNat / 16 ≤ row.hiMax ∧
    row.loMin ≤ State.reset.a.toNat % 16 ∧ State.reset.a.toNat % 16 ≤ row.loMax :=
  ⟨_, List.mem_cons_self, by decide⟩

/-- No byte and flags fit two rows of the DAA table. -/
theorem test_decimal_rows_apart : (List.range 256).all (fun v =>
    [false, true].all fun n => [false, true].all fun c => [false, true].all fun h =>
      decide ((daaTable.filter (daaRowFits (BitVec.ofNat 8 v) ⟨false, false, h, false, n, c⟩)).length ≤ 1)) = true := by
  decide +kernel

/-- The operands 99 and 99 with C set, and 0 and 0 (DecimalArithmeticIsCorrect). -/
theorem witness_decimal_operands : (let s : State := { State.reset with a := 0x99#8, f := 0x01#8 }
    99 < 100 ∧ s.a = packedBcd 99 ∧ s.flags.c = true) ∧ 0 < 100 ∧ State.reset.a = packedBcd 0 := by decide

/-- A state at whose next boundary nothing is requested. -/
def quiet (bs : List Byte) : State := { State.reset with pc := 0x0100#16, mem := placeBytes [] 0x0100#16 bs }

/-- A quiet state has nothing between the boundary and the instruction. -/
theorem quiet_undisturbed (bs : List Byte) : (quiet bs).Undisturbed :=
  ⟨⟨rfl, rfl⟩, by simp [State.NmiDue, State.sample, quiet, State.reset],
    by simp [State.IntDue, State.sample, quiet, State.reset], rfl⟩

/-- A step that executes an instruction (StepRunsDecodedInstruction, whose state u is FetchedAs; ControlStateWriters). -/
theorem witness_executes : (quiet [0x41#8]).Executes (.ldRR .b .c) := ⟨quiet_undisturbed _, _, rfl⟩

/-- A step that executes although a maskable request is up, interrupts being off. -/
theorem witness_executes_masked : ({ quiet [0x41#8] with inputs := [lines false true 0x11#8] } : State).Executes (.ldRR .b .c) :=
  ⟨⟨⟨rfl, rfl⟩, by simp [State.NmiDue, State.sample, quiet, State.reset, lines],
    by simp [State.IntDue, quiet, State.reset], rfl⟩, _, rfl⟩

/-- The steps that ControlStateWriters names are taken. -/
theorem witness_control_writers : (quiet [0xED#8, 0x4F#8]).Executes .ldRRegA ∧ (quiet [0xED#8, 0x47#8]).Executes .ldIRegA ∧
    (quiet [0xED#8, 0x46#8]).Executes .im0 ∧ (quiet [0xED#8, 0x56#8]).Executes .im1 ∧ (quiet [0xED#8, 0x5E#8]).Executes .im2 ∧
    (quiet [0x08#8]).Executes .exAfAf ∧ (quiet [0xD9#8]).Executes .exx ∧ (quiet [0xF3#8]).Executes .di ∧
    (quiet [0xFB#8]).Executes .ei ∧ (quiet [0xED#8, 0x45#8]).Executes .retn ∧ (quiet [0x76#8]).Executes .halt :=
  ⟨⟨quiet_undisturbed _, _, rfl⟩, ⟨quiet_undisturbed _, _, rfl⟩, ⟨quiet_undisturbed _, _, rfl⟩, ⟨quiet_undisturbed _, _, rfl⟩,
    ⟨quiet_undisturbed _, _, rfl⟩, ⟨quiet_undisturbed _, _, rfl⟩, ⟨quiet_undisturbed _, _, rfl⟩, ⟨quiet_undisturbed _, _, rfl⟩,
    ⟨quiet_undisturbed _, _, rfl⟩, ⟨quiet_undisturbed _, _, rfl⟩, ⟨quiet_undisturbed _, _, rfl⟩⟩

/-- HALT enters the Halt state, and a request ends it (ControlStateWriters, its last two clauses). -/
theorem witness_halt_entered_and_left : gives [0x76#8] State.reset (fun t => t.halted) = true ∧
    gives [0x00#8] { State.reset with halted := true, iff1 := true, inputs := [lines false true 0x00#8] }
      (fun t => !t.halted) = true ∧
    gives [0x00#8] { State.reset with halted := true, inputs := [lines true false 0x00#8] } (fun t => !t.halted) = true := by
  decide +kernel

/-- No reset, and a next state (ControlStateWriters); memory in canonical form and IFF1 = IFF2 = 1 (MemoryFormIsKept,
EnableOrderIsKept). -/
theorem witness_steps_on : (quiet [0xC5#8]).sample.reset = .inactive ∧ (quiet [0xC5#8]).mem.wf = true ∧
    ({ State.reset with iff1 := true, iff2 := true } : State).EnableOrder ∧
    gives [0xC5#8] { State.reset with b := 0x12#8, iff1 := true, iff2 := true } (fun t => t.mem.wf && t.iff2) = true := by
  refine ⟨rfl, by decide +kernel, fun _ => rfl, by decide +kernel⟩

/-- Bytes that decode (EncodeOfDecodeIsBytes), and well-formed instructions with bytes after them. -/
theorem witness_decodes : decode [0xDD#8, 0x36#8, 0x10#8, 0x7F#8, 0xAA#8] = .ok (.ldIxIndN 0x10#8 0x7F#8, [0xAA#8]) ∧
    (Instr.ldIxIndN 0x10#8 0x7F#8).wellFormed = true ∧ decode [0x18#8, 0x80#8] = .ok (.jr (-126), []) := ⟨rfl, rfl, rfl⟩

/-- Each clause of UndefinedEncodingsAreExact at the ends of its ranges, on both sides. -/
theorem witness_defined_and_not : Decodes [0x00#8, 0x00#8, 0x00#8, 0x00#8] ∧ Decodes [0xFF#8, 0xFF#8, 0xFF#8, 0xFF#8] ∧
    Decodes [0xCB#8, 0x2F#8, 0x00#8, 0x00#8] ∧ Decodes [0xCB#8, 0x38#8, 0x00#8, 0x00#8] ∧
    decode [0xCB#8, 0x30#8, 0x00#8, 0x00#8] = .error (.undefinedCB 0x30#8) ∧
    decode [0xCB#8, 0x37#8, 0x00#8, 0x00#8] = .error (.undefinedCB 0x37#8) ∧
    Decodes [0xED#8, 0x40#8, 0x00#8, 0x00#8] ∧ Decodes [0xED#8, 0xBB#8, 0x00#8, 0x00#8] ∧
    decode [0xED#8, 0x70#8, 0x00#8, 0x00#8] = .error (.undefinedED 0x70#8) ∧
    Decodes [0xDD#8, 0x09#8, 0x00#8, 0x00#8] ∧ Decodes [0xFD#8, 0xF9#8, 0x00#8, 0x00#8] ∧
    decode [0xFD#8, 0x76#8, 0x00#8, 0x00#8] = .error (.undefinedXY 0x76#8) ∧
    Decodes [0xDD#8, 0xCB#8, 0x00#8, 0x06#8] ∧ Decodes [0xFD#8, 0xCB#8, 0x00#8, 0xFE#8] ∧
    decode [0xDD#8, 0xCB#8, 0x00#8, 0x36#8] = .error (.undefinedXYCB 0x36#8) ∧
    decode [0xFD#8, 0xCB#8, 0x00#8, 0x07#8] = .error (.undefinedXYCB 0x07#8) :=
  ⟨⟨_, _, rfl⟩, ⟨_, _, rfl⟩, ⟨_, _, rfl⟩, ⟨_, _, rfl⟩, rfl, rfl, ⟨_, _, rfl⟩, ⟨_, _, rfl⟩, rfl, ⟨_, _, rfl⟩, ⟨_, _, rfl⟩, rfl,
    ⟨_, _, rfl⟩, ⟨_, _, rfl⟩, rfl, rfl⟩

/-- The two refusals of StepStopsOnlyWhereSpecIsSilent (the third, an odd vector, is test_S8) and a next state. -/
theorem witness_stops : (match step (quiet [0xED#8, 0x24#8]) with
    | .refused r => r == .undefinedEncoding (.undefinedED 0x24#8)
    | _ => false) = true ∧ gives [0x00#8] State.reset (fun _ => true) = true := by decide +kernel

/-- A user reset asked for while halted (UserResetEffect). -/
theorem witness_user_reset : ({ State.reset with halted := true, inputs := [⟨.user, some [], true, true, 0x00#8⟩] } : State).sample.reset
    = .user := rfl

/-- A power-on reset asked for while halted (UserResetEffect), and what it does to a register, memory and the queue. -/
theorem witness_power_on_reset : (let s : State := { State.reset with
      a := 0x12#8, halted := true, mem := holding 0x3000#16 [0x99#8], ioIn := [0x01#8], inputs := [⟨.powerOn, none, true, true, 0x00#8⟩] }
    s.sample.reset == .powerOn && match step s with
    | .next t => t.a == 0x00#8 && !t.halted && !t.nmiPending && t.cell 0x3000#16 == 0x99#8 && t.ioIn == [0x01#8] && t.trace == []
    | _ => false) = true := by decide +kernel

/-- A non-maskable request by the latch and by the line (NonMaskableAcknowledge). -/
theorem witness_non_maskable : (let s : State := { State.reset with nmiPending := true }
    s.Free ∧ s.NmiDue) ∧ (let s : State := { State.reset with inputs := [lines true false 0x00#8] }
    s.Free ∧ s.NmiDue) := ⟨⟨⟨rfl, rfl⟩, .inl rfl⟩, ⟨rfl, rfl⟩, .inr rfl⟩

/-- A maskable request that is due (MaskableAcknowledge), in mode 1 with an odd byte and in mode 2 with an even one. -/
theorem witness_maskable : (let s : State := { State.reset with iff1 := true, im := .im1, inputs := [lines false true 0x11#8] }
    s.Free ∧ ¬ s.NmiDue ∧ s.IntDue ∧ (s.im = .im2 → s.sample.ivec.toNat % 2 = 0)) ∧
    (let s : State := { State.reset with iff1 := true, im := .im2, inputs := [lines false true 0xFE#8] }
    s.Free ∧ ¬ s.NmiDue ∧ s.IntDue ∧ (s.im = .im2 → s.sample.ivec.toNat % 2 = 0)) :=
  ⟨⟨⟨rfl, rfl⟩, by simp [State.NmiDue, State.sample, State.reset, lines], ⟨rfl, rfl⟩, by decide⟩,
    ⟨⟨rfl, rfl⟩, by simp [State.NmiDue, State.sample, State.reset, lines], ⟨rfl, rfl⟩, by decide⟩⟩

/-- A halted state with a masked request (HaltStateIdles). -/
theorem witness_halted : (let s : State := { State.reset with halted := true, inputs := [lines false true 0x00#8] }
    s.Free ∧ ¬ s.NmiDue ∧ ¬ s.IntDue ∧ s.halted = true) :=
  ⟨⟨rfl, rfl⟩, by simp [State.NmiDue, State.sample, State.reset, lines], by simp [State.IntDue, State.reset], rfl⟩

/-- The bus asked for, with two writes to one address and an I/O write (BusGrantKeepsCpuState). -/
theorem witness_bus_request : (let s : State := { State.reset with
      inputs := [⟨.inactive, some [.memWrite 0x3000#16 0x01#8, .ioWrite 0x0020#16 0x03#8, .memWrite 0x3000#16 0x02#8], true, true, 0x00#8⟩] }
    s.sample.reset = .inactive ∧ s.sample.dma = some [.memWrite 0x3000#16 0x01#8, .ioWrite 0x0020#16 0x03#8, .memWrite 0x3000#16 0x02#8]) :=
  ⟨rfl, rfl⟩

/-- RAM behind the stack, and ROM behind its upper byte (PushThenPopMovesWord, CallThenReturnComesBack, ReturnFromNmiRestores). -/
theorem witness_stack_backing : (let s : State := { State.reset with sp := 0x8000#16 }
    s.keeps (s.sp - 1) && s.keeps (s.sp - 2)) = true ∧
    (let s : State := { State.reset with sp := 0x8000#16, memMap := [⟨0x7FFF#16, 1, .rom⟩] }
    !s.keeps (s.sp - 1) && s.keeps (s.sp - 2) && s.holds (s.sp - 1)) = true := by decide

/-- An address of each kind, at the ends of a region that wraps, and with a queued byte (ReadGives in LoadWordFromMemory). -/
theorem witness_backing : (let s : State := { State.reset with
      memMap := [⟨0xFFFE#16, 3, .device⟩, ⟨0x3000#16, 1, .nothing⟩, ⟨0x3000#16, 2, .rom⟩], memIn := [0x5A#8] }
    [0xFFFD#16, 0xFFFE#16, 0x0000#16, 0x0001#16, 0x3000#16, 0x3001#16, 0x3002#16].map s.backing =
      [.ram, .device, .device, .ram, .nothing, .rom, .ram] ∧ s.memIn = 0x5A#8 :: []) := by decide

/-- A repeat that goes on, its next iteration undisturbed (StepRunsDecodedInstruction). -/
theorem witness_executes_repeating : ({ quiet [0xED#8, 0xB0#8] with repeating := true } : State).Executes .ldir :=
  ⟨⟨⟨rfl, rfl⟩, by simp [State.NmiDue, State.sample, quiet, State.reset], by simp [State.IntDue, State.sample, quiet, State.reset],
    rfl⟩, _, rfl⟩

/-! ### What stands behind an address, and the transactions of a step (R4, R14, R78) -/

/-- A device gives the queued byte and leaves the rest; a write to it is emitted and changes no cell. -/
theorem test_device : gives [0x7E#8] { State.reset with h := 0x30#8, memMap := [⟨0x3000#16, 1, .device⟩], memIn := [0x5A#8, 0x77#8] }
      (fun t => t.a == 0x5A#8 && t.memIn == [0x77#8] && t.trace.head? == some (.memRead 0x3000#16 0x5A#8)) = true ∧
    gives [0x77#8] { State.reset with a := 0x21#8, h := 0x30#8, memMap := [⟨0x3000#16, 1, .device⟩] }
      (fun t => t.cell 0x3000#16 == 0x00#8 && t.trace.head? == some (.memWrite 0x3000#16 0x21#8)) = true := by decide +kernel

/-- ROM reads as its contents and keeps them through INC (HL). -/
theorem test_rom : gives [0x34#8] { State.reset with h := 0x30#8, memMap := [⟨0x3000#16, 16, .rom⟩], mem := holding 0x3000#16 [0x41#8] }
    (fun t => t.readByte 0x3000#16 == 0x41#8 && t.trace.take 2 == [.memWrite 0x3000#16 0x42#8, .memRead 0x3000#16 0x41#8]) = true := by
  decide +kernel

/-- A word whose two bytes are both inputs: the first one is the low byte. -/
theorem test_device_word : gives [0x2A#8, 0x00#8, 0x30#8]
    { State.reset with memMap := [⟨0x3000#16, 2, .device⟩], memIn := [0x34#8, 0x12#8] }
    (fun t => t.hl == 0x1234#16 && t.memIn == []) = true := by decide +kernel

/-- The fetch reads the instruction's bytes in order, and no more: LD A,n takes two. -/
theorem test_fetch_reads : gives [0x3E#8, 0x5A#8] State.reset
    (fun t => t.trace.drop 1 == [.memRead 0x0101#16 0x5A#8, .memRead 0x0100#16 0x3E#8]) = true := by decide +kernel

/-- The bytes of an instruction where nothing stands are inputs. -/
theorem test_fetch_input : gives [] { State.reset with memMap := [⟨0x0100#16, 256, .device⟩], memIn := [0x3E#8, 0x5A#8, 0x11#8] }
    (fun t => t.a == 0x5A#8 && t.memIn == [0x11#8] && t.pc == 0x0102#16) = true := by decide +kernel

/-- HALT makes the ignored read of the next byte (R68). -/
theorem test_halt_read : gives [0x76#8, 0x3C#8] State.reset
    (fun t => t.trace.head? == some (.memRead 0x0101#16 0x3C#8) && t.pc == 0x0101#16) = true := by decide +kernel

/-- LDIR that goes on says so; in the step after it one event stands for the reads of its bytes. -/
theorem test_repeating : gives [0xED#8, 0xB0#8] { State.reset with c := 0x02#8 } (fun t => t.repeating && t.pc == 0x0100#16) = true ∧
    gives [0xED#8, 0xB0#8] { State.reset with c := 0x01#8, repeating := true }
      (fun t => !t.repeating && t.pc == 0x0102#16 && t.trace.length == 4) = true := by decide +kernel

end Sys2Proof.Tests
end

section
/-! Memory keeps its canonical form under every instruction: first each shared operation, then `exec`. -/

namespace Sys2Proof.Machine

section
variable (s : State)

/-! The operations that make no write leave memory as it is. -/

@[simp] theorem State.accAdd_mem (src : Byte) (cin : Bool) : (s.accAdd src cin).mem = s.mem := by simp [State.accAdd]
@[simp] theorem State.accSub_mem (src : Byte) (cin : Bool) : (s.accSub src cin).mem = s.mem := by simp [State.accSub]
@[simp] theorem State.accCompare_mem (src : Byte) : (s.accCompare src).mem = s.mem := by simp [State.accCompare]
@[simp] theorem State.accAnd_mem (src : Byte) : (s.accAnd src).mem = s.mem := by simp [State.accAnd]
@[simp] theorem State.accXor_mem (src : Byte) : (s.accXor src).mem = s.mem := by simp [State.accXor]
@[simp] theorem State.accOr_mem (src : Byte) : (s.accOr src).mem = s.mem := by simp [State.accOr]
@[simp] theorem State.incReg_mem (r : Reg8) : (s.incReg r).mem = s.mem := by simp [State.incReg]
@[simp] theorem State.decReg_mem (r : Reg8) : (s.decReg r).mem = s.mem := by simp [State.decReg]
@[simp] theorem State.shiftReg_mem (op : Byte → Bool → Shifted) (r : Reg8) : (s.shiftReg op r).mem = s.mem := by
  simp [State.shiftReg]
@[simp] theorem State.rotateAcc_mem (op : Byte → Bool → Shifted) : (s.rotateAcc op).mem = s.mem := by simp [State.rotateAcc]
@[simp] theorem State.bitTest_mem (v : Byte) (b : Nat) : (s.bitTest v b).mem = s.mem := by simp [State.bitTest]
@[simp] theorem State.blockCompare_mem (delta : Word) : (s.blockCompare delta).mem = s.mem := by simp [State.blockCompare]
@[simp] theorem State.blockOut_mem (delta : Word) : (s.blockOut delta).mem = s.mem := by simp [State.blockOut]
@[simp] theorem State.decimalAdjust_mem : s.decimalAdjust.mem = s.mem := by
  unfold State.decimalAdjust
  split <;> simp

end

section
variable {s : State} (h : s.mem.wf = true)
include h

/-! The operations that write a byte keep the form. -/

theorem State.wf_incMem (a : Word) : (s.incMem a).mem.wf = true := State.wf_writeByte (s := s.readDone a) h

theorem State.wf_decMem (a : Word) : (s.decMem a).mem.wf = true := State.wf_writeByte (s := s.readDone a) h

theorem State.wf_shiftMem (op : Byte → Bool → Shifted) (a : Word) : (s.shiftMem op a).mem.wf = true :=
  State.wf_writeByte (s := s.readDone a) h

theorem State.wf_changeMem (op : Byte → Byte) (a : Word) : (s.changeMem op a).mem.wf = true :=
  State.wf_writeByte (s := s.readDone a) h

theorem State.wf_rotateDigitLeft : s.rotateDigitLeft.mem.wf = true :=
  State.wf_writeByte (s := (s.readDone s.hl).setA _) h

theorem State.wf_rotateDigitRight : s.rotateDigitRight.mem.wf = true :=
  State.wf_writeByte (s := (s.readDone s.hl).setA _) h

theorem State.wf_blockLoad (delta : Word) : (s.blockLoad delta).mem.wf = true :=
  State.wf_writeByte (s := s.readDone s.hl) h

theorem State.wf_blockIn (delta : Word) : (s.blockIn delta).mem.wf = true :=
  State.wf_writeByte (s := s.ioReadDone s.bc) (by simpa using h)

end

/-- Whether a repeating instruction goes on or not, its memory is the iteration's. -/
theorem repeatWhile_mem {again : Bool} {u t : State} (h : repeatWhile again u = .next t) : t.mem = u.mem := by
  cases h
  simp [apply_ite State.mem]

/-- An instruction keeps the canonical form of memory: the arms named here write, all others leave memory as it is. -/
theorem exec_wf {i : Instr} {s t : State} (hw : s.mem.wf = true) (h : exec i s = .next t) : t.mem.wf = true := by
  cases i
  case ldHlIndR | ldIxIndR | ldIyIndR | ldHlIndN | ldIxIndN | ldIyIndN | ldBcIndA | ldDeIndA | ldMnIndA =>
    cases h; rw [State.advance_mem]; exact State.wf_writeByte hw
  case ldMnIndHl | ldMnIndSs | ldMnIndIx | ldMnIndIy => cases h; rw [State.advance_mem]; exact State.wf_writeWord hw
  case pushTt | pushIx | pushIy => cases h; rw [State.advance_mem]; exact State.wf_push16 hw
  case callMn | rst => cases h; rw [State.setPC_mem]; exact State.wf_push16 hw
  case callCcMn =>
    cases h
    split
    · rw [State.setPC_mem]; exact State.wf_push16 hw
    · exact hw
  case exSpIndHl | exSpIndIx | exSpIndIy =>
    cases h
    simp only [State.advance_mem, State.setHL_mem, State.setIX_mem, State.setIY_mem]
    exact State.wf_storeTop hw
  case incHlInd | incIxInd | incIyInd => cases h; rw [State.advance_mem]; exact State.wf_incMem hw _
  case decHlInd | decIxInd | decIyInd => cases h; rw [State.advance_mem]; exact State.wf_decMem hw _
  case rlcHlInd | rlcIxInd | rlcIyInd | rlHlInd | rlIxInd | rlIyInd | rrcHlInd | rrcIxInd | rrcIyInd | rrHlInd |
      rrIxInd | rrIyInd | slaHlInd | slaIxInd | slaIyInd | sraHlInd | sraIxInd | sraIyInd | srlHlInd | srlIxInd |
      srlIyInd =>
    cases h; rw [State.advance_mem]; exact State.wf_shiftMem hw _ _
  case setHlInd | setIxInd | setIyInd | resHlInd | resIxInd | resIyInd =>
    cases h; rw [State.advance_mem]; exact State.wf_changeMem hw _ _
  case rld => cases h; rw [State.advance_mem]; exact State.wf_rotateDigitLeft hw
  case rrd => cases h; rw [State.advance_mem]; exact State.wf_rotateDigitRight hw
  case ldi | ldd => cases h; rw [State.advance_mem]; exact State.wf_blockLoad hw _
  case ldir | lddr => rw [repeatWhile_mem h]; exact State.wf_blockLoad hw _
  case ini | ind => cases h; rw [State.advance_mem]; exact State.wf_blockIn hw _
  case inir | indr => rw [repeatWhile_mem h]; exact State.wf_blockIn hw _
  case cpir | cpdr | otir | otdr => rw [repeatWhile_mem h]; simpa using hw
  all_goals cases h; simpa [apply_ite State.mem] using hw

end Sys2Proof.Machine
end

section
/-! The ways a step goes, with the next state in hand, and memory after an acknowledge. -/

namespace Sys2Proof.Machine

/-- An instruction that a step runs was decoded from the bytes at PC, and executes after its fetch. -/
theorem runInstruction_next {s t : State} (h : runInstruction s = .next t) :
    ∃ i rest n, decode s.fetch = .ok (i, rest) ∧ exec i (s.fetched n) = .next t := by
  unfold runInstruction at h
  split at h
  · exact ⟨_, _, _, ‹_›, h⟩
  · cases h

/-- All that a step can do when it gives a next state (R402): `step_cases` with the outcome in hand. -/
theorem step_next_cases {s t : State} (h : step s = .next t) :
    (s.sample.reset = .user ∧ t = s.sampled.resetUser) ∨
    (s.sample.reset = .powerOn ∧ t = s.sampled.resetPowerOn) ∨
    (∃ ws, s.sample.reset = .inactive ∧ t = s.sampled.grantBus ws) ∨
    (s.Free ∧ s.NmiDue ∧ t = ackNonMaskable s.sample.ivec s.sampled) ∨
    (s.Free ∧ ¬ s.NmiDue ∧ s.IntDue ∧ ackMaskable s.sample.ivec s.sampled = .next t) ∨
    (s.Free ∧ ¬ s.NmiDue ∧ ¬ s.IntDue ∧ t = s.sampled.emit .halt) ∨
    (∃ i n, s.Executes i ∧ exec i (s.sampled.fetched n) = .next t) := by
  rcases step_cases s with
    ⟨hr, e⟩ | ⟨hr, e⟩ | ⟨ws, hr, -, e⟩ | ⟨hf, hn, e⟩ | ⟨hf, hn, hi, e⟩ | ⟨hf, hn, hi, -, e⟩ | ⟨hu, e⟩ <;>
    rw [h] at e
  · cases e; exact .inl ⟨hr, rfl⟩
  · cases e; exact .inr (.inl ⟨hr, rfl⟩)
  · cases e; exact .inr (.inr (.inl ⟨ws, hr, rfl⟩))
  · cases e; exact .inr (.inr (.inr (.inl ⟨hf, hn, rfl⟩)))
  · exact .inr (.inr (.inr (.inr (.inl ⟨hf, hn, hi, e.symm⟩))))
  · cases e; exact .inr (.inr (.inr (.inr (.inr (.inl ⟨hf, hn, hi, rfl⟩)))))
  · obtain ⟨i, rest, n, hd, hx⟩ := runInstruction_next e.symm
    rw [State.sampled_fetch] at hd
    exact .inr (.inr (.inr (.inr (.inr (.inr ⟨i, n, ⟨hu, rest, hd⟩, hx⟩)))))

theorem State.wf_acknowledge {s : State} {v : Byte} {target : Word} (hw : s.mem.wf = true) :
    (s.acknowledge v target).mem.wf = true := by
  rw [State.acknowledge]
  exact State.wf_ackEnter hw

theorem State.wf_acknowledge2 {s : State} {v : Byte} (hw : s.mem.wf = true) : (s.acknowledge2 v).mem.wf = true := by
  rw [State.acknowledge2]
  exact State.wf_ackEnter (by simpa [State.ackTable, State.ackBegin] using hw)

theorem wf_ackNonMaskable {v : Byte} {s : State} (hw : s.mem.wf = true) : (ackNonMaskable v s).mem.wf = true := by
  rw [ackNonMaskable, State.setNmiPending_mem, State.setIff_mem]
  exact State.wf_acknowledge hw

theorem wf_of_ackMaskable {v : Byte} {s t : State} (hw : s.mem.wf = true) (h : ackMaskable v s = .next t) :
    t.mem.wf = true := by
  rcases ackMaskable_cases v s with ⟨-, -, e⟩ | ⟨-, -, e⟩ | ⟨-, e⟩ <;> rw [h] at e <;> cases e
  · rw [State.setIff_mem]; exact State.wf_acknowledge2 hw
  · rw [State.setIff_mem]; exact State.wf_acknowledge hw

end Sys2Proof.Machine
end

section
/-! The control state: the registers, bits and the alternate bank that R23 names the writers of. Each shared operation of the
instructions leaves it, so that what an instruction does to it is said in one equation. -/

namespace Sys2Proof.Machine

/-- I, R, IM, the enables, the Halt state and the alternate bank: what few instructions write (R21, R23, R28 to R31, R38). -/
structure Control where
  iReg : Byte
  rReg : Byte
  im : IntMode
  iff1 : Bool
  iff2 : Bool
  halted : Bool
  aAlt : Byte
  fAlt : Byte
  bAlt : Byte
  cAlt : Byte
  dAlt : Byte
  eAlt : Byte
  hAlt : Byte
  lAlt : Byte

/-- The control state of a state. -/
def State.control (s : State) : Control :=
  ⟨s.iReg, s.rReg, s.im, s.iff1, s.iff2, s.halted, s.aAlt, s.fAlt, s.bAlt, s.cAlt, s.dAlt, s.eAlt, s.hAlt, s.lAlt⟩

/-- The parts of the state that make up the control state. -/
def controlLocs : List Loc :=
  [.iReg, .rReg, .im, .iff1, .iff2, .halted, .aAlt, .fAlt, .bAlt, .cAlt, .dAlt, .eAlt, .hAlt, .lAlt]

/-- A frame that lists no part of the control state keeps it. -/
theorem Unchanged.control {ch : List Loc} {s t : State} (h : Unchanged ch s t)
    (hd : ∀ x ∈ controlLocs, x ∉ ch := by decide) : t.control = s.control := by
  have e : ∀ x ∈ controlLocs, x.Same s t := fun x hx => h x (hd x hx)
  simp only [controlLocs, List.forall_mem_cons, List.not_mem_nil, Loc.Same] at e
  simp [State.control, e]

section
variable (s : State)

@[simp] theorem State.control_setA (v : Byte) : (s.setA v).control = s.control := rfl
@[simp] theorem State.control_setB (v : Byte) : (s.setB v).control = s.control := rfl
@[simp] theorem State.control_setDE (v : Word) : (s.setDE v).control = s.control := rfl
@[simp] theorem State.control_setHL (v : Word) : (s.setHL v).control = s.control := rfl
@[simp] theorem State.control_setIX (v : Word) : (s.setIX v).control = s.control := rfl
@[simp] theorem State.control_setIY (v : Word) : (s.setIY v).control = s.control := rfl
@[simp] theorem State.control_setSP (v : Word) : (s.setSP v).control = s.control := rfl
@[simp] theorem State.control_setPC (v : Word) : (s.setPC v).control = s.control := rfl
@[simp] theorem State.control_setNmiPending (v : Bool) : (s.setNmiPending v).control = s.control := rfl
@[simp] theorem State.control_setRepeating (v : Bool) : (s.setRepeating v).control = s.control := rfl
@[simp] theorem State.control_advance (n : Nat) : (s.advance n).control = s.control := rfl
@[simp] theorem State.control_emit (ev : BusEvent) : (s.emit ev).control = s.control := rfl
@[simp] theorem State.control_ioWrite (port : Word) (v : Byte) : (s.ioWrite port v).control = s.control := rfl
@[simp] theorem State.control_writeFlags (fl : Flags) : (s.writeFlags fl).control = s.control := rfl
@[simp] theorem State.control_sampled : s.sampled.control = s.control := rfl

@[simp] theorem State.control_setR8 (r : Reg8) (v : Byte) : (s.setR8 r v).control = s.control :=
  (s.setR8_spec r v).1.control (by cases r <;> decide)
@[simp] theorem State.control_setRdd (r : RegDD) (v : Word) : (s.setRdd r v).control = s.control :=
  (s.setRdd_spec r v).1.control (by cases r <;> decide)
@[simp] theorem State.control_setRtt (r : RegTT) (v : Word) : (s.setRtt r v).control = s.control :=
  (s.setRtt_spec r v).1.control (by cases r <;> decide)
@[simp] theorem State.control_readDone (a : Word) : (s.readDone a).control = s.control := (s.readDone_spec a).1.control
@[simp] theorem State.control_readWordDone (a : Word) : (s.readWordDone a).control = s.control :=
  (s.readWordDone_spec a).1.control
@[simp] theorem State.control_writeByte (a : Word) (v : Byte) : (s.writeByte a v).control = s.control :=
  (s.writeByte_spec a v).1.control
@[simp] theorem State.control_writeWord (a v : Word) : (s.writeWord a v).control = s.control :=
  (s.writeWord_spec a v).1.control
@[simp] theorem State.control_push16 (v : Word) : (s.push16 v).control = s.control := (s.push16_spec v).1.control
@[simp] theorem State.control_dropWord : s.dropWord.control = s.control := s.dropWord_spec.1.control
@[simp] theorem State.control_storeTop (v : Word) : (s.storeTop v).control = s.control := (s.storeTop_spec v).1.control
@[simp] theorem State.control_returnFromStack : s.returnFromStack.control = s.control := s.returnFromStack_spec.1.control
@[simp] theorem State.control_ioReadDone (port : Word) : (s.ioReadDone port).control = s.control := by simp [State.control]
@[simp] theorem State.control_fetched (n : Nat) : (s.fetched n).control = s.control := by simp [State.control]
@[simp] theorem State.control_grantBus (ws : List DmaAccess) : (s.grantBus ws).control = s.control := by
  simp [State.control]

@[simp] theorem State.control_accAdd (src : Byte) (cin : Bool) : (s.accAdd src cin).control = s.control :=
  (s.accAdd_spec src cin).1.control
@[simp] theorem State.control_accSub (src : Byte) (cin : Bool) : (s.accSub src cin).control = s.control :=
  (s.accSub_spec src cin).1.control
@[simp] theorem State.control_accCompare (src : Byte) : (s.accCompare src).control = s.control :=
  (s.accCompare_spec src).1.control
@[simp] theorem State.control_accAnd (src : Byte) : (s.accAnd src).control = s.control := (s.accAnd_spec src).1.control
@[simp] theorem State.control_accXor (src : Byte) : (s.accXor src).control = s.control := (s.accXor_spec src).1.control
@[simp] theorem State.control_accOr (src : Byte) : (s.accOr src).control = s.control := (s.accOr_spec src).1.control
@[simp] theorem State.control_incReg (r : Reg8) : (s.incReg r).control = s.control :=
  (s.incReg_spec r).1.control (by cases r <;> decide)
@[simp] theorem State.control_decReg (r : Reg8) : (s.decReg r).control = s.control :=
  (s.decReg_spec r).1.control (by cases r <;> decide)
@[simp] theorem State.control_incMem (a : Word) : (s.incMem a).control = s.control := (s.incMem_spec a).1.control
@[simp] theorem State.control_decMem (a : Word) : (s.decMem a).control = s.control := (s.decMem_spec a).1.control
@[simp] theorem State.control_shiftReg (op : Byte → Bool → Shifted) (r : Reg8) : (s.shiftReg op r).control = s.control :=
  (s.shiftReg_spec op r).1.control (by cases r <;> decide)
@[simp] theorem State.control_shiftMem (op : Byte → Bool → Shifted) (a : Word) : (s.shiftMem op a).control = s.control :=
  (s.shiftMem_spec op a).1.control
@[simp] theorem State.control_rotateAcc (op : Byte → Bool → Shifted) : (s.rotateAcc op).control = s.control :=
  (s.rotateAcc_spec op).1.control
@[simp] theorem State.control_changeMem (op : Byte → Byte) (a : Word) : (s.changeMem op a).control = s.control :=
  (s.changeMem_spec op a).1.control
@[simp] theorem State.control_bitTest (v : Byte) (b : Nat) : (s.bitTest v b).control = s.control :=
  (s.bitTest_spec v b).1.control
@[simp] theorem State.control_rotateDigitLeft : s.rotateDigitLeft.control = s.control := s.rotateDigitLeft_spec.1.control
@[simp] theorem State.control_rotateDigitRight : s.rotateDigitRight.control = s.control :=
  s.rotateDigitRight_spec.1.control
@[simp] theorem State.control_decimalAdjust : s.decimalAdjust.control = s.control := s.decimalAdjust_frame.1.control
@[simp] theorem State.control_blockLoad (delta : Word) : (s.blockLoad delta).control = s.control :=
  (s.blockLoad_spec delta).1.control
@[simp] theorem State.control_blockCompare (delta : Word) : (s.blockCompare delta).control = s.control :=
  (s.blockCompare_spec delta).1.control
@[simp] theorem State.control_blockIn (delta : Word) : (s.blockIn delta).control = s.control :=
  (s.blockIn_spec delta).1.control
@[simp] theorem State.control_blockOut (delta : Word) : (s.blockOut delta).control = s.control :=
  (s.blockOut_spec delta).1.control

end

/-! The operations that write it, each with what it writes. -/

section
variable (s : State)

@[simp] theorem State.control_setI (v : Byte) : (s.setI v).control = { s.control with iReg := v } := rfl
@[simp] theorem State.control_setR (v : Byte) : (s.setR v).control = { s.control with rReg := v } := rfl
@[simp] theorem State.control_setIM (m : IntMode) : (s.setIM m).control = { s.control with im := m } := rfl
@[simp] theorem State.control_setIff (v1 v2 : Bool) :
    (s.setIff v1 v2).control = { s.control with iff1 := v1, iff2 := v2 } := rfl
@[simp] theorem State.control_setHalted (v : Bool) : (s.setHalted v).control = { s.control with halted := v } := rfl
@[simp] theorem State.control_swapAF : s.swapAF.control = { s.control with aAlt := s.a, fAlt := s.f } := rfl
@[simp] theorem State.control_swapBank :
    s.swapBank.control =
      { s.control with bAlt := s.b, cAlt := s.c, dAlt := s.d, eAlt := s.e, hAlt := s.h, lAlt := s.l } := rfl

end

/-- The control state after an instruction: R23's writers and nothing else. -/
def State.controlAfter (s : State) : Instr → Control
  | .ldIRegA => { s.control with iReg := s.a }
  | .ldRRegA => { s.control with rReg := s.a }
  | .im0 => { s.control with im := .im0 }
  | .im1 => { s.control with im := .im1 }
  | .im2 => { s.control with im := .im2 }
  | .exAfAf => { s.control with aAlt := s.a, fAlt := s.f }
  | .exx => { s.control with bAlt := s.b, cAlt := s.c, dAlt := s.d, eAlt := s.e, hAlt := s.h, lAlt := s.l }
  | .di => { s.control with iff1 := false, iff2 := false }
  | .ei => { s.control with iff1 := true, iff2 := true }
  | .retn => { s.control with iff1 := s.iff2 }
  | .halt => { s.control with halted := true }
  | _ => s.control

/-- What every instruction does to the control state: the arms named here are those of `controlAfter`, all others are made of
operations that leave it, on either branch of a condition. -/
theorem exec_control {i : Instr} {s t : State} (h : exec i s = .next t) : t.control = s.controlAfter i := by
  cases i
  case ldIRegA | ldRRegA | im0 | im1 | im2 | exAfAf | exx | di | ei => cases h; rfl
  case retn => cases h; simp [State.controlAfter, State.control]
  case halt => cases h; simp [State.controlAfter]
  all_goals cases h; simp [State.controlAfter, apply_ite State.control]

end Sys2Proof.Machine
end

section
/-! What a step does to the control state. -/

namespace Sys2Proof.Machine

theorem State.control_acknowledge (s : State) (v : Byte) (target : Word) :
    (s.acknowledge v target).control = { s.control with halted := false } := by
  simp [State.acknowledge, State.ackBegin, State.ackEnter]

theorem State.control_acknowledge2 (s : State) (v : Byte) :
    (s.acknowledge2 v).control = { s.control with halted := false } := by
  simp [State.acknowledge2, State.ackTable, State.ackBegin, State.ackEnter]

/-- The non-maskable acknowledge clears IFF1, keeps IFF2 and ends the Halt state (R411, D4). -/
theorem control_ackNonMaskable (v : Byte) (s : State) :
    (ackNonMaskable v s).control = { s.control with iff1 := false, halted := false } := by
  rw [ackNonMaskable, State.control_setNmiPending, State.control_setIff, State.control_acknowledge]
  rfl

/-- The maskable acknowledge clears both enables and ends the Halt state, in every mode (R410, D4). -/
theorem control_of_ackMaskable {v : Byte} {s t : State} (h : ackMaskable v s = .next t) :
    t.control = { s.control with iff1 := false, iff2 := false, halted := false } := by
  rcases ackMaskable_cases v s with ⟨-, -, e⟩ | ⟨-, -, e⟩ | ⟨-, e⟩ <;> rw [h] at e <;> cases e
  · rw [State.control_setIff, State.control_acknowledge2]
  · rw [State.control_setIff, State.control_acknowledge]

/-- All that a step without a reset can do to the control state: nothing, what an acknowledge writes, or what the instruction
it executes writes. -/
theorem step_control {s t : State} (hr : s.sample.reset = .inactive) (h : step s = .next t) :
    t.control = s.control ∨
    (s.Free ∧ s.NmiDue ∧ t.control = { s.control with iff1 := false, halted := false }) ∨
    (s.Free ∧ ¬ s.NmiDue ∧ s.IntDue ∧ t.control = { s.control with iff1 := false, iff2 := false, halted := false }) ∨
    (∃ i, s.Executes i ∧ t.control = s.controlAfter i) := by
  rcases step_next_cases h with
    ⟨hu, -⟩ | ⟨hp, -⟩ | ⟨ws, -, rfl⟩ | ⟨hf, hn, rfl⟩ | ⟨hf, hn, hi, e⟩ | ⟨-, -, -, rfl⟩ | ⟨i, n, hx, e⟩
  · simp [hr] at hu
  · simp [hr] at hp
  · simp
  · exact .inr (.inl ⟨hf, hn, by rw [control_ackNonMaskable, State.control_sampled]⟩)
  · exact .inr (.inr (.inl ⟨hf, hn, hi, by rw [control_of_ackMaskable e, State.control_sampled]⟩))
  · simp
  · refine .inr (.inr (.inr ⟨i, hx, (exec_control e).trans ?_⟩))
    cases i <;> simp [State.controlAfter]

/-- The order of the enables is a fact about the control state. -/
theorem State.enableOrder_iff (s : State) : s.EnableOrder ↔ (s.control.iff1 = true → s.control.iff2 = true) := Iff.rfl

/-- No instruction sets IFF1 without IFF2: EI sets both, DI clears both, RETN copies IFF2. -/
theorem State.enableOrder_controlAfter {s : State} (h : s.EnableOrder) (i : Instr) :
    (s.controlAfter i).iff1 = true → (s.controlAfter i).iff2 = true := by
  cases i
  case di | ei | retn => simp [State.controlAfter, State.control]
  all_goals exact h

/-! The two resets (R41, R450 to R452). -/

theorem step_of_userReset {s : State} (hr : s.sample.reset = .user) : step s = .next s.sampled.resetUser := by
  simp [step, State.service, hr]

theorem step_of_powerOnReset {s : State} (hr : s.sample.reset = .powerOn) : step s = .next s.sampled.resetPowerOn := by
  simp [step, State.service, hr]

theorem State.resetUser_controlReset (s : State) : s.resetUser.ControlReset :=
  ⟨rfl, rfl, rfl, rfl, rfl, rfl, rfl, rfl, rfl⟩

/-- `clearb` leaves what `resetb` has initialised. -/
theorem State.resetPowerOn_controlReset (s : State) : s.resetPowerOn.ControlReset := s.resetUser_controlReset

theorem State.resetPowerOn_registersCleared (s : State) : s.resetPowerOn.RegistersCleared := by
  simp [State.RegistersCleared, State.resetPowerOn]

/-- IFF1 is clear after either reset. -/
theorem State.ControlReset.enableOrder {t : State} (h : t.ControlReset) : t.EnableOrder := by
  obtain ⟨-, -, -, -, h1, -⟩ := h
  simp [State.EnableOrder, h1]

end Sys2Proof.Machine
end

section
/-! What the instructions that pop a word into a register share. -/

namespace Sys2Proof.Machine

theorem State.setIX_unchanged (s : State) (v : Word) : Unchanged [.ix] s (s.setIX v) :=
  fun x hx => by cases x <;> simp_all [Loc.Same]

theorem State.setIY_unchanged (s : State) (v : Word) : Unchanged [.iy] s (s.setIY v) :=
  fun x hx => by cases x <;> simp_all [Loc.Same]

/-- An instruction that pops a word, writes only the parts `ch` of the register `reg` with it and advances completes: the write
of the register leaves SP, the transactions and PC as `dropWord` left them. -/
theorem completes_of_pop {i : Instr} {bytes : List Byte} {s u : State} {ch changed : List Loc} {reg : State → Word} (n : Nat)
    (henc : i.wellFormed = true → encode i = bytes) (hx : exec i s = .next (u.advance n)) (hn : n = bytes.length)
    (hu : Unchanged ch s.dropWord u) (hm : u.mem = s.dropWord.mem) (hreg : reg (u.advance n) = s.topWord)
    (hkeep : ∀ x ∈ [Loc.sp, .trace, .memIn, .ioIn], x ∉ ch) (hpc : Loc.pc ∉ changed)
    (hsub : .sp :: .memIn :: .draws :: .trace :: ch ⊆ changed) :
    Completes i bytes s changed [] fun t =>
      (reg t).toNat = s.wordAt s.sp ∧ t.sp = s.sp + 2 ∧ Transacts (s.wordRead s.sp) s t := by
  obtain ⟨du, dm, dt, dsp⟩ := s.dropWord_spec
  simp only [List.forall_mem_cons, List.not_mem_nil] at hkeep
  obtain ⟨ksp, ktrace, kmemIn, kioIn, -⟩ := hkeep
  have hframe : Unchanged changed s u :=
    (du.mono fun x hx => hsub (by simp at hx ⊢; tauto)).trans (hu.mono fun x hx => hsub (by simp [hx]))
  have hval : (reg (u.advance n)).toNat = s.wordAt s.sp := by rw [hreg]; exact State.readWord_toNat s s.sp
  exact completes_of_advance n henc hx hn hframe hpc (fun a ha => (State.cell_of_mem hm a).trans (dm a ha))
    ⟨hval, (hu .sp ksp).trans dsp, dt.congr (hu .trace ktrace) (hu .memIn kmemIn) (hu .ioIn kioIn) hm⟩

end Sys2Proof.Machine
end

section
/-! The statements settled. -/

namespace Sys2Proof.Machine

/-- Settles O51: of the ways a step goes, a bus grant, an acknowledge and an instruction can write memory, and each keeps the
form. -/
theorem memoryFormIsKept : Obligations.MemoryFormIsKept := by
  intro s t hw h
  have hs : s.sampled.mem.wf = true := hw
  rcases step_next_cases h with
    ⟨-, rfl⟩ | ⟨-, rfl⟩ | ⟨ws, -, rfl⟩ | ⟨-, -, rfl⟩ | ⟨-, -, -, e⟩ | ⟨-, -, -, rfl⟩ | ⟨i, n, -, e⟩
  · exact hs
  · exact hs
  · rw [State.grantBus_mem]; exact Memory.wf_dmaAccesses hs
  · exact wf_ackNonMaskable hs
  · exact wf_of_ackMaskable hs e
  · exact hs
  · exact exec_wf (by simpa using hw) e

/-- Settles O52: a reset and the acknowledges clear IFF1, and every instruction keeps the order. -/
theorem enableOrderIsKept : Obligations.EnableOrderIsKept := by
  intro s t hs h
  cases hr : s.sample.reset with
  | user =>
    cases (step_of_userReset hr).symm.trans h
    exact (State.resetUser_controlReset _).enableOrder
  | powerOn =>
    cases (step_of_powerOnReset hr).symm.trans h
    exact (State.resetPowerOn_controlReset _).enableOrder
  | inactive =>
    rw [State.enableOrder_iff]
    rcases step_control hr h with e | ⟨-, -, e⟩ | ⟨-, -, -, e⟩ | ⟨i, -, e⟩ <;> rw [e]
    · exact hs
    · simp
    · simp
    · exact State.enableOrder_controlAfter hs i

/-- Settles O9: every POP is `dropWord`, a write of its register with the word that was on top, and `advance`. -/
theorem popLoadsWord : Obligations.PopLoadsWord := by
  intro s
  refine ⟨fun tt => ?_, ?_, ?_⟩
  · exact completes_of_pop (reg := fun t => t.rtt tt) 1 (fun _ => by cases tt <;> rfl) rfl rfl
      (s.dropWord.setRtt_spec tt s.topWord).1 (by simp) (s.dropWord.setRtt_spec tt s.topWord).2.2
      (by cases tt <;> decide) (by cases tt <;> decide) (List.Subset.refl _)
  · exact completes_of_pop (reg := State.ix) 2 (fun _ => rfl) rfl rfl (s.dropWord.setIX_unchanged s.topWord) rfl rfl
      (by decide) (by decide) (by simp)
  · exact completes_of_pop (reg := State.iy) 2 (fun _ => rfl) rfl rfl (s.dropWord.setIY_unchanged s.topWord) rfl rfl
      (by decide) (by decide) (by simp)

/-- Settles O53: what `step_control` leaves unchanged needs no writer, and each part an instruction changes is in the clause that
names it. That the Halt state is left by an interrupt only holds because no instruction executes in it. -/
theorem controlStateWriters : Obligations.ControlStateWriters := by
  intro s t hr h
  rcases step_control hr h with e | ⟨hf, hn, e⟩ | ⟨hf, hn, hi, e⟩ | ⟨i, hx, e⟩
  case inr.inr.inr =>
    have ⟨⟨_, _, _, hh⟩, _⟩ := hx
    unfold State.controlAfter at e
    split at e
    all_goals
      simp only [State.control, Control.mk.injEq] at e
      simp_all
  all_goals
    simp only [State.control, Control.mk.injEq] at e
    simp_all

/-- Settles O55: a reset boundary goes straight to one of the two resets, and no field of a reset state but those listed is
written. -/
theorem userResetEffect : Obligations.UserResetEffect := by
  intro s
  refine ⟨fun hr => ⟨_, step_of_userReset hr, State.resetUser_controlReset _, fun x hx => ?_, fun _ _ => rfl⟩,
    fun hr => ⟨_, step_of_powerOnReset hr, State.resetPowerOn_controlReset _, State.resetPowerOn_registersCleared _,
      fun x hx => ?_, fun _ _ => rfl⟩⟩
  · cases x <;> simp_all [Loc.Same]
  · cases x <;> simp_all [Loc.Same, State.resetPowerOn]

/-- Settles O54: the reset state is the literal the rules give. -/
theorem resetStateMeetsInvariants : Obligations.ResetStateMeetsInvariants :=
  ⟨rfl, rfl, rfl, rfl, rfl, rfl, rfl, rfl, State.ControlReset.enableOrder ⟨rfl, rfl, rfl, rfl, rfl, rfl, rfl, rfl, rfl⟩⟩

end Sys2Proof.Machine
end

section
/-! What the writes of the control state and of PC leave, and frames made of frames. -/

namespace Sys2Proof.Machine

theorem State.setIff_unchanged (s : State) (v1 v2 : Bool) : Unchanged [.iff1, .iff2] s (s.setIff v1 v2) :=
  fun x hx => by cases x <;> simp_all [Loc.Same]

theorem State.setIM_unchanged (s : State) (m : IntMode) : Unchanged [.im] s (s.setIM m) :=
  fun x hx => by cases x <;> simp_all [Loc.Same]

theorem State.setHalted_unchanged (s : State) (v : Bool) : Unchanged [.halted] s (s.setHalted v) :=
  fun x hx => by cases x <;> simp_all [Loc.Same]

theorem State.advance_unchanged (s : State) (n : Nat) : Unchanged [.pc] s (s.advance n) :=
  fun x hx => by cases x <;> simp_all [Loc.Same]

/-- A part that is the same at the end need not be listed, though it was written on the way. -/
theorem Unchanged.of_same {x : Loc} {ch : List Loc} {s t : State} (h : Unchanged (x :: ch) s t) (hx : x.Same s t) :
    Unchanged ch s t := fun y hy => by
  by_cases e : y = x
  · exact e ▸ hx
  · exact h y (by simp [e, hy])

/-- What two parts one after the other change is what either changes. -/
theorem Unchanged.append {ch ch' : List Loc} {s t u : State} (h : Unchanged ch s t) (k : Unchanged ch' t u) :
    Unchanged (ch ++ ch') s u :=
  (h.mono (List.subset_append_left ch ch')).trans (k.mono (List.subset_append_right ch ch'))

theorem MemUnchanged.trans {stored : List Word} {s t u : State} (h : MemUnchanged stored s t) (k : MemUnchanged [] t u) :
    MemUnchanged stored s u := fun a ha => (k a (by simp)).trans (h a ha)

end Sys2Proof.Machine
end

section
/-! CPU control: the instructions that write the enables, the mode and the Halt state (R371 to R376). -/

namespace Sys2Proof.Machine
variable {i : Instr} {bytes : List Byte} {s : State}

theorem completes_of_setIff {v1 v2 : Bool} (henc : i.wellFormed = true → encode i = bytes)
    (hx : exec i s = .next ((s.setIff v1 v2).advance bytes.length)) :
    Completes i bytes s [.iff1, .iff2] [] fun t => t.iff1 = v1 ∧ t.iff2 = v2 :=
  completes_of_advance _ henc hx rfl (s.setIff_unchanged v1 v2) (by decide) (fun _ _ => rfl) ⟨rfl, rfl⟩

theorem completes_of_setIM {m : IntMode} (henc : i.wellFormed = true → encode i = bytes)
    (hx : exec i s = .next ((s.setIM m).advance bytes.length)) :
    Completes i bytes s [.im] [] fun t => t.im = m :=
  completes_of_advance _ henc hx rfl (s.setIM_unchanged m) (by decide) (fun _ _ => rfl) rfl

/-- `HALT` reads the byte after its opcode, then enters the Halt state (R68, R371). -/
theorem halt_completes (s : State) : Completes .halt [0x76#8] s [.halted, .memIn, .draws, .trace] [] fun t =>
    t.halted = true ∧ Transacts (s.byteRead (s.pc + 1)) s t := by
  obtain ⟨hread, hmem, htrans⟩ := s.readDone_spec (s.pc + 1)
  have hset := (s.readDone (s.pc + 1)).setHalted_unchanged true
  exact completes_of_advance 1 (fun _ => rfl) rfl rfl ((hread.append hset).mono (by simp)) (by decide) hmem
    ⟨rfl, htrans.congr rfl rfl rfl rfl⟩

end Sys2Proof.Machine
end

section
/-! A push and then a pop (R65). -/

namespace Sys2Proof.Machine

/-- A pop at another PC. -/
theorem exec_popTt_advance (r : RegTT) (s : State) (n : Nat) :
    exec (.popTt r) (s.advance n) = .next (((s.dropWord.advance n).setRtt r s.topWord).advance 1) := rfl

@[simp] theorem State.rtt_advance (s : State) (n : Nat) (r : RegTT) : (s.advance n).rtt r = s.rtt r := by cases r <;> rfl

/-- A pop takes back what a push did to SP; nothing else was written but memory. -/
theorem State.dropWord_push16_unchanged (s : State) (v : Word) :
    Unchanged [.memIn, .draws, .trace] s (s.push16 v).dropWord := by
  obtain ⟨hpush, -⟩ := s.push16_spec v
  obtain ⟨hpop, -⟩ := (s.push16 v).dropWord_spec
  have hboth : Unchanged [.sp, .memIn, .draws, .trace] s (s.push16 v).dropWord := (hpush.append hpop).mono (by simp)
  have hsp : (s.push16 v).dropWord.sp = s.sp := by simp
  exact hboth.of_same hsp

theorem State.dropWord_push16_mem (s : State) (v : Word) :
    MemUnchanged [s.sp - 1, s.sp - 2] s (s.push16 v).dropWord := by
  obtain ⟨-, hpush, -⟩ := s.push16_spec v
  obtain ⟨-, hpop, -⟩ := (s.push16 v).dropWord_spec
  exact hpush.trans hpop

end Sys2Proof.Machine
end

section
/-! The step at which the bus is granted (R76, R421). -/

namespace Sys2Proof.Machine

theorem State.grantBus_trace (s : State) (ws : List DmaAccess) :
    (s.grantBus ws).trace = (if s.halted then [.halt, .dmaGrant] else [.dmaGrant]) ++ s.trace := by
  unfold State.grantBus
  cases s.halted <;> rfl

theorem State.grantBus_unchanged (s : State) (ws : List DmaAccess) : Unchanged [.trace] s (s.grantBus ws) :=
  fun x hx => by cases x <;> simp_all [Loc.Same]

theorem State.sampled_unchanged (s : State) : Unchanged [.nmiPending, .inputs] s s.sampled :=
  fun x hx => by cases x <;> simp_all [Loc.Same]

theorem State.grantBus_cell (s : State) (ws : List DmaAccess) (a : Word) :
    (s.grantBus ws).cell a = if s.keeps a then (lastDmaWrite a ws).getD (s.cell a) else s.cell a := by
  rw [State.cell, State.grantBus_mem]
  exact memRead_dmaAccesses s ws s.mem a

/-- The bus is granted before any interrupt is looked at (R403, D5). -/
theorem step_of_busRequest {s : State} {ws : List DmaAccess} (hr : s.sample.reset = .inactive)
    (hd : s.sample.dma = some ws) : step s = .next (s.sampled.grantBus ws) := by
  simp [step, State.service, hr, hd]

end Sys2Proof.Machine
end

section
/-! The statements settled: memory, the stack and the CPU control. -/

namespace Sys2Proof.Machine

/-- Settles O12: the pop undoes the push's change of SP, and the word on top after a push to RAM is the one pushed. -/
theorem pushThenPopMovesWord : Obligations.PushThenPopMovesWord := by
  intro s x y
  obtain ⟨hset, hsetMem, hval⟩ := ((s.push16 (s.rtt x)).dropWord.advance 1).setRtt_spec y (s.push16 (s.rtt x)).topWord
  refine ⟨_, _, rfl, exec_popTt_advance y _ 1, ?_, ?_, fun h1 h2 => ?_⟩
  · have hstack := s.dropWord_push16_unchanged (s.rtt x)
    have hall := ((hstack.append (State.advance_unchanged _ 1)).append hset).append (State.advance_unchanged _ 1)
    exact hall.mono fun z hz => by simp at hz ⊢; tauto
  · exact (s.dropWord_push16_mem (s.rtt x)).trans hsetMem
  · rw [State.rtt_advance, hval, State.topWord_push16 _ h1 h2]

/-- Settles O43: each but NOP is one write of the control state, before it HALT reads a byte, and all end in `advance`. -/
theorem cpuControlInstructions : Obligations.CpuControlInstructions := by
  intro s
  refine ⟨?_, halt_completes s, ?_, ?_, ?_, ?_, ?_⟩
  · exact completes_of_advance 1 (fun _ => rfl) rfl rfl (Unchanged.refl _ s) (by simp) (MemUnchanged.refl _ s) trivial
  · exact completes_of_setIff (fun _ => rfl) rfl
  · exact completes_of_setIff (fun _ => rfl) rfl
  · exact completes_of_setIM (fun _ => rfl) rfl
  · exact completes_of_setIM (fun _ => rfl) rfl
  · exact completes_of_setIM (fun _ => rfl) rfl

/-- Settles O59: the step samples the lines, which sets the latch, and grants the bus, which writes memory and the trace. -/
theorem busGrantKeepsCpuState : Obligations.BusGrantKeepsCpuState := by
  intro s ws hr hd
  refine ⟨_, step_of_busRequest hr hd, ?_, ?_, s.sampled.grantBus_trace ws, s.sampled.grantBus_cell ws⟩
  · rw [State.grantBus_nmiPending, State.sampled_nmiPending]
  · exact s.sampled_unchanged.append (s.sampled.grantBus_unchanged ws)

end Sys2Proof.Machine
end

section
/-! The fields of an opcode byte: a byte is its fixed bits with its fields put back, and the codes name operands one to one
(30_encoding.md R92 to R101). -/

namespace Sys2Proof

theorem byte_and_ones (op : Byte) : op &&& 0b11111111#8 = op := BitVec.and_allOnes

theorem or_field20 {op pat : Byte} (h : op &&& 0b11111000#8 = pat) : pat ||| field20 op = op := by
  subst h
  revert op
  decide +kernel

/-- Where bits 7..3 are clear, the byte is its field. -/
theorem field20_eq {op : Byte} (h : op &&& 0b11111000#8 = 0#8) : field20 op = op := by simpa using or_field20 h

theorem or_field53 {op pat : Byte} (h : op &&& 0b11000111#8 = pat) : pat ||| (field53 op <<< 3) = op := by
  subst h
  revert op
  decide +kernel

theorem or_field54 {op pat : Byte} (h : op &&& 0b11001111#8 = pat) : pat ||| (field54 op <<< 4) = op := by
  subst h
  revert op
  decide +kernel

theorem or_field43 {op pat : Byte} (h : op &&& 0b11100111#8 = pat) : pat ||| (field43 op <<< 3) = op := by
  subst h
  revert op
  decide +kernel

theorem or_field53_or_field20 {op pat : Byte} (h : op &&& 0b11000000#8 = pat) :
    pat ||| (field53 op <<< 3) ||| field20 op = op := by
  subst h
  revert op
  decide +kernel

theorem or_restart {op pat : Byte} (h : op &&& 0b11000111#8 = pat) : pat ||| (op &&& 0b00111000#8) = op := by
  subst h
  revert op
  decide +kernel

/-- The `rrr` codes and the registers are one to one; 110 is the code of none (R92). -/
theorem Reg8.ofCode_eq_some_iff {c : Byte} {r : Reg8} : Reg8.ofCode c = some r ↔ r.code = c := by
  revert c
  cases r <;> decide +kernel

theorem RegDD.code_ofCode_field54 (op : Byte) : (RegDD.ofCode (field54 op)).code = field54 op := by
  revert op
  decide +kernel

theorem RegTT.code_ofCode_field54 (op : Byte) : (RegTT.ofCode (field54 op)).code = field54 op := by
  revert op
  decide +kernel

theorem RegXX.code_ofCode_field54 (op : Byte) : (RegXX.ofCode (field54 op)).code = field54 op := by
  revert op
  decide +kernel

theorem RegYY.code_ofCode_field54 (op : Byte) : (RegYY.ofCode (field54 op)).code = field54 op := by
  revert op
  decide +kernel

theorem Cond.code_ofCode_field53 (op : Byte) : (Cond.ofCode (field53 op)).code = field53 op := by
  revert op
  decide +kernel

theorem CC.code_ofCode_field43 (op : Byte) : (CC.ofCode (field43 op)).code = field43 op := by
  revert op
  decide +kernel

end Sys2Proof
end

section
/-! What the decoder reads is encoded by the bytes it read: row by row, then page by page. -/

namespace Sys2Proof

open Sys2Proof.Machine (word16 hiByte loByte)

/-- `P` holds of what every row makes of every byte that fits it. -/
def RowsGive {α : Type} (P : Byte → α → Prop) (rows : List (OpRow α)) : Prop :=
  ∀ r ∈ rows, ∀ op, op &&& r.mask = r.pat → ∀ x, r.make op = some x → P op x

/-- What a property of its rows says of a page: what it selects has the property. -/
theorem RowsGive.of_selectRow {α : Type} {P : Byte → α → Prop} {rows : List (OpRow α)} {op : Byte} {x : α}
    (h : RowsGive P rows) (hs : selectRow rows op = some x) : P op x := by
  obtain ⟨r, hr, hfit, hmake⟩ := selectRow_mem hs
  exact h r hr op hfit x hmake

/-- A row with a register field makes something where the field's code names a register. -/
theorem forall_bind_eq_some_iff {α β : Type} {o : Option β} {f : β → Option α} {P : α → Prop} :
    (∀ x, o.bind f = some x → P x) ↔ ∀ r, o = some r → ∀ x, f r = some x → P x := by
  cases o <;> simp

/-- The instruction that operand bytes complete is encoded by `pre` and those bytes. -/
def Tail.Spells (pre : List Byte) : Tail → Prop
  | .none i => encode i = pre
  | .one k => ∀ n, encode (k n) = pre ++ [n]
  | .word k => ∀ w, encode (k w) = pre ++ [loByte w, hiByte w]
  | .two k => ∀ d n, encode (k d n) = pre ++ [d, n]

@[simp] theorem Tail.spells_none {pre : List Byte} {i : Instr} : (Tail.none i).Spells pre ↔ encode i = pre := Iff.rfl

@[simp] theorem Tail.spells_one {pre : List Byte} {k : Byte → Instr} :
    (Tail.one k).Spells pre ↔ ∀ n, encode (k n) = pre ++ [n] := Iff.rfl

@[simp] theorem Tail.spells_word {pre : List Byte} {k : Word → Instr} :
    (Tail.word k).Spells pre ↔ ∀ w, encode (k w) = pre ++ [loByte w, hiByte w] := Iff.rfl

@[simp] theorem Tail.spells_two {pre : List Byte} {k : Byte → Byte → Instr} :
    (Tail.two k).Spells pre ↔ ∀ d n, encode (k d n) = pre ++ [d, n] := Iff.rfl

theorem Tail.Spells.of_read {pre bs rest : List Byte} {t : Tail} {i : Instr} (ht : t.Spells pre)
    (h : t.read bs = .ok (i, rest)) : pre ++ bs = encode i ++ rest := by
  cases t with
  | none j => cases h; rw [ht]
  | one k =>
    rcases bs with _ | ⟨n, bs⟩ <;> cases h
    rw [ht, List.append_assoc, List.singleton_append]
  | word k =>
    rcases bs with _ | ⟨lo, _ | ⟨hi, bs⟩⟩ <;> cases h
    simp [ht (word16 hi lo)]
  | two k =>
    rcases bs with _ | ⟨d, _ | ⟨n, bs⟩⟩ <;> cases h
    simp [ht d n]

/-! The pages (R102 to R106). A row without a field fits one byte and spells it. In a row with fields the codes of the operands
are the fields of the byte, and its fixed bits with the fields put back are the byte. -/

theorem mainRows_spell : RowsGive (fun op t => t.Spells [op]) mainRows := by
  simp only [RowsGive, mainRows, mainRowsExact1, mainRowsExact2, mainRowsFields, List.forall_mem_append, List.forall_mem_cons,
    byte_and_ones, forall_eq, Option.some.injEq, forall_eq', forall_bind_eq_some_iff, Reg8.ofCode_eq_some_iff]
  simp +contextual [encode, byteOfDistance_distanceOfByte, RegDD.code_ofCode_field54, RegTT.code_ofCode_field54,
    Cond.code_ofCode_field53, CC.code_ofCode_field43, or_field20, or_field53, or_field54, or_field43, or_field53_or_field20,
    or_restart]

theorem cbRows_spell : RowsGive (fun op t => t.Spells [0xCB#8, op]) cbRows := by
  simp only [RowsGive, cbRows, cbRowsExact, cbRowsFields, List.forall_mem_append, List.forall_mem_cons,
    byte_and_ones, forall_eq, Option.some.injEq, forall_eq', forall_bind_eq_some_iff, Reg8.ofCode_eq_some_iff]
  simp +contextual [encode, field20_eq, or_field20, or_field53, or_field53_or_field20]

theorem edRows_spell : RowsGive (fun op t => t.Spells [0xED#8, op]) edRows := by
  simp only [RowsGive, edRows, edRowsExact, edRowsFields, List.forall_mem_append, List.forall_mem_cons,
    byte_and_ones, forall_eq, Option.some.injEq, forall_eq', forall_bind_eq_some_iff, Reg8.ofCode_eq_some_iff]
  simp +contextual [encode, RegDD.code_ofCode_field54, or_field53, or_field54]

theorem ixRows_spell : RowsGive (fun op t => t.Spells [0xDD#8, op]) ixRows := by
  simp only [RowsGive, ixRows, ixRowsExact, ixRowsFields, List.forall_mem_append, List.forall_mem_cons,
    byte_and_ones, forall_eq, Option.some.injEq, forall_eq', forall_bind_eq_some_iff, Reg8.ofCode_eq_some_iff]
  simp +contextual [encode, RegXX.code_ofCode_field54, or_field20, or_field53, or_field54]

theorem iyRows_spell : RowsGive (fun op t => t.Spells [0xFD#8, op]) iyRows := by
  simp only [RowsGive, iyRows, iyRowsExact, iyRowsFields, List.forall_mem_append, List.forall_mem_cons,
    byte_and_ones, forall_eq, Option.some.injEq, forall_eq', forall_bind_eq_some_iff, Reg8.ofCode_eq_some_iff]
  simp +contextual [encode, RegYY.code_ofCode_field54, or_field20, or_field53, or_field54]

theorem ixCbRows_spell : RowsGive (fun op k => ∀ d, encode (k d) = [0xDD#8, 0xCB#8, d, op]) ixCbRows := by
  simp only [RowsGive, ixCbRows, ixCbRowsExact, ixCbRowsFields, List.forall_mem_append, List.forall_mem_cons,
    byte_and_ones, forall_eq, Option.some.injEq, forall_eq']
  simp +contextual [encode, or_field53]

theorem iyCbRows_spell : RowsGive (fun op k => ∀ d, encode (k d) = [0xFD#8, 0xCB#8, d, op]) iyCbRows := by
  simp only [RowsGive, iyCbRows, iyCbRowsExact, iyCbRowsFields, List.forall_mem_append, List.forall_mem_cons,
    byte_and_ones, forall_eq, Option.some.injEq, forall_eq']
  simp +contextual [encode, or_field53]

/-- What a page reads is encoded by the bytes before the page, `pre`, and the bytes read. -/
theorem encode_of_decodePage {pre bs rest : List Byte} {rows : List (OpRow Tail)} {err : Byte → DecodeError} {i : Instr}
    (hrows : RowsGive (fun op t => t.Spells (pre ++ [op])) rows) (h : decodePage rows err bs = .ok (i, rest)) :
    pre ++ bs = encode i ++ rest := by
  cases bs with
  | nil => cases h
  | cons op bs =>
    rw [decodePage] at h
    cases hs : selectRow rows op with
    | none => rw [hs] at h; cases h
    | some t =>
      rw [hs] at h
      rw [← (hrows.of_selectRow hs).of_read h, List.append_assoc, List.singleton_append]

theorem encode_of_decodeXYCB {p : Byte} {bs rest : List Byte} {rows : List (OpRow (Byte → Instr))} {i : Instr}
    (hrows : RowsGive (fun op k => ∀ d, encode (k d) = [p, 0xCB#8, d, op]) rows)
    (h : decodeXYCB rows bs = .ok (i, rest)) : p :: 0xCB#8 :: bs = encode i ++ rest := by
  rcases bs with _ | ⟨d, _ | ⟨op, bs⟩⟩
  · cases h
  · cases h
  · rw [decodeXYCB] at h
    cases hs : selectRow rows op with
    | none => rw [hs] at h; cases h
    | some k =>
      rw [hs] at h
      cases h
      rw [hrows.of_selectRow hs d]
      rfl

theorem encode_of_decodeXY {p : Byte} {bs rest : List Byte} {rows : List (OpRow Tail)}
    {cb : List (OpRow (Byte → Instr))} {i : Instr} (hrows : RowsGive (fun op t => t.Spells [p, op]) rows)
    (hcb : RowsGive (fun op k => ∀ d, encode (k d) = [p, 0xCB#8, d, op]) cb) (h : decodeXY rows cb bs = .ok (i, rest)) :
    p :: bs = encode i ++ rest := by
  cases bs with
  | nil => cases h
  | cons b bs =>
    rw [decodeXY] at h
    split at h
    · subst b
      exact encode_of_decodeXYCB hcb h
    · exact encode_of_decodePage (pre := [p]) hrows h

/-- Whatever bytes the decoder reads, they are the encoding of the instruction it answers. -/
theorem encode_of_decode {bs rest : List Byte} {i : Instr} (h : decode bs = .ok (i, rest)) : bs = encode i ++ rest := by
  cases bs with
  | nil => cases h
  | cons b bs =>
    rw [decode] at h
    split_ifs at h
    · subst b; exact encode_of_decodePage (pre := [0xCB#8]) cbRows_spell h
    · subst b; exact encode_of_decodePage (pre := [0xED#8]) edRows_spell h
    · subst b; exact encode_of_decodeXY ixRows_spell ixCbRows_spell h
    · subst b; exact encode_of_decodeXY iyRows_spell iyCbRows_spell h
    · exact encode_of_decodePage (pre := []) mainRows_spell h

end Sys2Proof
end

section
/-! What the decoder reads from an encoding: the operands are named by the bytes that encode them, and the page is looked up. -/

namespace Sys2Proof

open Sys2Proof.Machine (word16 hiByte loByte hiByte_word16 loByte_word16 word16_hiByte_loByte)

theorem exists_word16 (w : Word) : ∃ hi lo, w = word16 hi lo := ⟨hiByte w, loByte w, (word16_hiByte_loByte w).symm⟩

theorem exists_distanceOfByte {e : Int} (h : distanceOk e = true) : ∃ b, e = distanceOfByte b :=
  ⟨byteOfDistance e, (distanceOfByte_byteOfDistance h).symm⟩

/-- The decoder reads back what was encoded. In each case the operands inside the selecting byte take their few values and
those after it stand for any byte, so that looking the byte up in its page is an evaluation. -/
theorem decode_encode {i : Instr} (rest : List Byte) (h : i.wellFormed = true) :
    decode (encode i ++ rest) = .ok (i, rest) := by
  cases i
  -- 8-bit registers (R92)
  case ldRR rd rs => cases rd <;> cases rs <;> rfl
  case ldRN r _ | ldRHlInd r | ldRIxInd r _ | ldRIyInd r _ | ldHlIndR r | ldIxIndR _ r | ldIyIndR _ r | incR r | decR r |
      addAR r | adcAR r | subAR r | sbcAR r | andAR r | xorAR r | orAR r | cpAR r | rlcR r | rrcR r | rlR r | rrR r |
      slaR r | sraR r | srlR r | inRC r | outCR r =>
    cases r <;> rfl
  -- word registers and conditions (R93, R100)
  case addHlSs r | adcHlSs r | sbcHlSs r | incSs r | decSs r | addIxXx r | addIyYy r | pushTt r | popTt r | retCc r =>
    cases r <;> rfl
  -- a word after the selecting byte (R97)
  case ldMnIndA mn | ldAMnInd mn | ldHlMnInd mn | ldMnIndHl mn | jpMn mn | callMn mn | ldIxMn mn | ldIyMn mn |
      ldIxMnInd mn | ldIyMnInd mn | ldMnIndIx mn | ldMnIndIy mn =>
    obtain ⟨hi, lo, rfl⟩ := exists_word16 mn
    rw [encode, hiByte_word16, loByte_word16]
    rfl
  case ldDdMn r mn | ldDdMnInd r mn | ldMnIndSs mn r | jpCcMn r mn | callCcMn r mn =>
    obtain ⟨hi, lo, rfl⟩ := exists_word16 mn
    rw [encode, hiByte_word16, loByte_word16]
    cases r <;> rfl
  -- distances (R99)
  case jr e | djnz e =>
    obtain ⟨b, rfl⟩ := exists_distanceOfByte h
    rw [encode, byteOfDistance_distanceOfByte]
    rfl
  case jrCc cc e =>
    obtain ⟨b, rfl⟩ := exists_distanceOfByte h
    rw [encode, byteOfDistance_distanceOfByte]
    cases cc <;> rfl
  -- bit numbers and restart addresses (R95, R101)
  case bitR b r | setR b r | resR b r =>
    have hb : b < 8 := of_decide_eq_true h
    interval_cases b <;> cases r <;> rfl
  case bitHlInd b | setHlInd b | resHlInd b | bitIxInd b _ | setIxInd b _ | resIxInd b _ | bitIyInd b _ | setIyInd b _ |
      resIyInd b _ =>
    have hb : b < 8 := of_decide_eq_true h
    interval_cases b <;> rfl
  case rst v =>
    have hv : v ∈ [0x00#8, 0x08#8, 0x10#8, 0x18#8, 0x20#8, 0x28#8, 0x30#8, 0x38#8] := List.contains_iff_mem.mp h
    fin_cases hv <;> rfl
  all_goals rfl

end Sys2Proof
end

section
/-! Which bytes decode: a page reads a byte exactly when a row selects it, operand bytes being at hand. -/

namespace Sys2Proof.Machine

theorem exists_read_of_two (t : Tail) (x y : Byte) (bs : List Byte) : ∃ i rest, t.read (x :: y :: bs) = .ok (i, rest) := by
  cases t <;> exact ⟨_, _, rfl⟩

theorem decodePage_ok_iff (rows : List (OpRow Tail)) (err : Byte → DecodeError) (op x y : Byte) (bs : List Byte) :
    (∃ i rest, decodePage rows err (op :: x :: y :: bs) = .ok (i, rest)) ↔ (selectRow rows op).isSome := by
  rw [decodePage]
  cases selectRow rows op with
  | none => simp
  | some t => simpa using exists_read_of_two t x y bs

theorem decodeXYCB_ok_iff (rows : List (OpRow (Byte → Instr))) (d op : Byte) (bs : List Byte) :
    (∃ i rest, decodeXYCB rows (d :: op :: bs) = .ok (i, rest)) ↔ (selectRow rows op).isSome := by
  rw [decodeXYCB]
  cases selectRow rows op <;> simp

/-! The bytes the rows of each page select (R102 to R106). -/

theorem mainRows_select (op : Byte) :
    op ≠ 0xCB#8 → op ≠ 0xED#8 → op ≠ 0xDD#8 → op ≠ 0xFD#8 → (selectRow mainRows op).isSome := by
  revert op
  decide +kernel

theorem cbRows_select_iff (op : Byte) : (selectRow cbRows op).isSome ↔ ¬ (0x30 ≤ op.toNat ∧ op.toNat ≤ 0x37) := by
  revert op
  decide +kernel

theorem edRows_select_iff (op : Byte) : (selectRow edRows op).isSome ↔ op ∈ edDefined := by
  revert op
  decide +kernel

theorem ixRows_select_iff (op : Byte) : (selectRow ixRows op).isSome ↔ op ∈ xyDefined := by
  revert op
  decide +kernel

theorem iyRows_select_iff (op : Byte) : (selectRow iyRows op).isSome ↔ op ∈ xyDefined := by
  revert op
  decide +kernel

theorem ixCbRows_select_iff (op : Byte) : (selectRow ixCbRows op).isSome ↔ op.toNat % 8 = 6 ∧ op ≠ 0x36#8 := by
  revert op
  decide +kernel

theorem iyCbRows_select_iff (op : Byte) : (selectRow iyCbRows op).isSome ↔ op.toNat % 8 = 6 ∧ op ≠ 0x36#8 := by
  revert op
  decide +kernel

end Sys2Proof.Machine
end

section
/-! 8-bit loads that move one byte between a register or an immediate and memory. -/

namespace Sys2Proof.Machine
variable {i : Instr} {bytes : List Byte} {s : State}

theorem completes_of_loadByte {r : Reg8} {a : Word} (henc : i.wellFormed = true → encode i = bytes)
    (hx : exec i s = .next (((s.readDone a).setR8 r (s.readByte a)).advance bytes.length)) :
    Completes i bytes s [.ofReg8 r, .memIn, .draws, .trace] [] fun t =>
      t.r8 r = s.readByte a ∧ Transacts (s.byteRead a) s t := by
  obtain ⟨hread, hmem, htrans⟩ := s.readDone_spec a
  obtain ⟨hset, hsetMem, hval⟩ := (s.readDone a).setR8_spec r (s.readByte a)
  have hframe := (hread.append hset).mono (ch' := [.ofReg8 r, .memIn, .draws, .trace]) (by simp)
  refine completes_of_advance _ henc hx rfl hframe (by cases r <;> decide) (hmem.trans hsetMem)
    ⟨hval, htrans.congr ?_ ?_ ?_ ?_⟩ <;> simp

theorem completes_of_storeByte {a : Word} {v : Byte} (henc : i.wellFormed = true → encode i = bytes)
    (hx : exec i s = .next ((s.writeByte a v).advance bytes.length)) :
    Completes i bytes s [.trace] [a] fun t => Transacts [.memWrite a v] s t := by
  obtain ⟨hframe, hmem, htrans⟩ := s.writeByte_spec a v
  exact completes_of_advance _ henc hx rfl hframe (by decide) hmem (htrans.congr rfl rfl rfl rfl)

end Sys2Proof.Machine
end

section
/-! Running an instruction stops on bytes without an entry only. -/

namespace Sys2Proof.Machine

/-- Every arm of `exec` ends in a next state. -/
theorem exists_exec_next (i : Instr) (s : State) : ∃ t, exec i s = .next t := by
  cases i <;> exact ⟨_, rfl⟩

theorem runInstruction_cases (s : State) :
    (∃ t, runInstruction s = .next t) ∨
    (∃ e, decode s.fetch = .error e ∧ runInstruction s = .refused (.undefinedEncoding e)) := by
  unfold runInstruction
  cases hd : decode s.fetch with
  | ok p => exact .inl (exists_exec_next _ _)
  | error e => exact .inr ⟨e, rfl, rfl⟩

end Sys2Proof.Machine
end

section
/-! The statements settled: the encoding. -/

namespace Sys2Proof.Machine

/-- Settles O47: by the case split over the instructions of `decode_encode`. -/
theorem decodeOfEncodeIsInstruction : Obligations.DecodeOfEncodeIsInstruction := fun _ rest h => decode_encode rest h

/-- Settles O48: every row of every page makes instructions that its byte spells. -/
theorem encodeOfDecodeIsBytes : Obligations.EncodeOfDecodeIsBytes := fun _ _ _ h =>
  ⟨decode_wellFormed h, encode_of_decode h⟩

/-- Settles O3: the loads are one read and a write of the register, the stores one write, at the indexed address. -/
theorem indexedByteTransfers : Obligations.IndexedByteTransfers := by
  intro s
  refine ⟨fun d => isIndexed_add_sext16 s.ix d, fun r d => ?_, fun d r => ?_, fun d n => ?_,
    fun d => isIndexed_add_sext16 s.iy d, fun r d => ?_, fun d r => ?_, fun d n => ?_⟩
  · exact completes_of_loadByte (fun _ => by cases r <;> rfl) rfl
  · exact completes_of_storeByte (fun _ => by cases r <;> rfl) rfl
  · exact completes_of_storeByte (fun _ => rfl) rfl
  · exact completes_of_loadByte (fun _ => by cases r <;> rfl) rfl
  · exact completes_of_storeByte (fun _ => by cases r <;> rfl) rfl
  · exact completes_of_storeByte (fun _ => rfl) rfl

/-- Settles O49: the first byte, or 0xCB after 0xDD or 0xFD, leads to a page, and its rows select the bytes listed. -/
theorem undefinedEncodingsAreExact : Obligations.UndefinedEncodingsAreExact := by
  intro b0 b1 b2 b3
  refine ⟨fun hcb hed hdd hfd => ?_, ?_, ?_, ?_, ?_⟩
  · have h := (decodePage_ok_iff mainRows .undefinedMain b0 b1 b2 [b3]).mpr (mainRows_select b0 hcb hed hdd hfd)
    simpa [Decodes, decode, hcb, hed, hdd, hfd] using h
  · exact (decodePage_ok_iff cbRows .undefinedCB b1 b2 b3 []).trans (cbRows_select_iff b1)
  · exact (decodePage_ok_iff edRows .undefinedED b1 b2 b3 []).trans (edRows_select_iff b1)
  · rintro p (rfl | rfl) hb1
    · have h := (decodePage_ok_iff ixRows .undefinedXY b1 b2 b3 []).trans (ixRows_select_iff b1)
      simpa [Decodes, decode, decodeXY, hb1] using h
    · have h := (decodePage_ok_iff iyRows .undefinedXY b1 b2 b3 []).trans (iyRows_select_iff b1)
      simpa [Decodes, decode, decodeXY, hb1] using h
  · rintro p (rfl | rfl)
    · exact (decodeXYCB_ok_iff ixCbRows b2 b3 []).trans (ixCbRows_select_iff b3)
    · exact (decodeXYCB_ok_iff iyCbRows b2 b3 []).trans (iyCbRows_select_iff b3)

/-- Settles O50: of the ways a step goes, only the acknowledge of mode 2 and the decoder refuse, and `exec` never does. -/
theorem stepStopsOnlyWhereSpecIsSilent : Obligations.StepStopsOnlyWhereSpecIsSilent := by
  intro s
  rcases step_cases s with
    ⟨-, e⟩ | ⟨-, e⟩ | ⟨ws, -, -, e⟩ | ⟨-, -, e⟩ | ⟨hf, hn, hi, e⟩ | ⟨-, -, -, -, e⟩ | ⟨hu, e⟩
  · exact .inl ⟨_, e⟩
  · exact .inl ⟨_, e⟩
  · exact .inl ⟨_, e⟩
  · exact .inl ⟨_, e⟩
  · rcases ackMaskable_cases s.sample.ivec s.sampled with ⟨him, hodd, ha⟩ | ⟨-, -, ha⟩ | ⟨-, ha⟩
    · exact .inr (.inr ⟨hf, hn, hi, him, hodd, e.trans ha⟩)
    · exact .inl ⟨_, e.trans ha⟩
    · exact .inl ⟨_, e.trans ha⟩
  · exact .inl ⟨_, e⟩
  · rcases runInstruction_cases s.sampled with ⟨t, hr⟩ | ⟨err, hd, hr⟩
    · exact .inl ⟨t, e.trans hr⟩
    · rw [State.sampled_fetch] at hd
      exact .inr (.inl ⟨hu, err, hd, e.trans hr⟩)

/-- Settles O46: the decoder evaluated on the words of the tables. -/
theorem wordsDecodeAsTheTablesSay : Obligations.WordsDecodeAsTheTablesSay :=
  ⟨rfl, rfl, rfl, rfl, rfl, rfl, rfl, rfl, rfl, rfl, rfl⟩

end Sys2Proof.Machine
end

section
/-! 8-bit loads without a bus transaction, and those of I and R. -/

namespace Sys2Proof.Machine
variable {i : Instr} {bytes : List Byte} {s : State}

theorem State.setA_unchanged (s : State) (v : Byte) : Unchanged [.a] s (s.setA v) :=
  fun x hx => by cases x <;> simp_all [Loc.Same]

theorem State.setI_unchanged (s : State) (v : Byte) : Unchanged [.iReg] s (s.setI v) :=
  fun x hx => by cases x <;> simp_all [Loc.Same]

theorem State.setR_unchanged (s : State) (v : Byte) : Unchanged [.rReg] s (s.setR v) :=
  fun x hx => by cases x <;> simp_all [Loc.Same]

theorem State.writeFlags_unchanged (s : State) (fl : Flags) : Unchanged [.f, .draws] s (s.writeFlags fl) :=
  fun x hx => by cases x <;> simp_all [Loc.Same]

theorem completes_of_setR8 {r : Reg8} {v : Byte} (henc : i.wellFormed = true → encode i = bytes)
    (hx : exec i s = .next ((s.setR8 r v).advance bytes.length)) :
    Completes i bytes s [.ofReg8 r] [] fun t => t.r8 r = v := by
  obtain ⟨hset, hmem, hval⟩ := s.setR8_spec r v
  exact completes_of_advance _ henc hx rfl hset (by cases r <;> decide) hmem hval

/-- The flags of `LD A,I` and `LD A,R` in exact arithmetic (R144, R145). -/
theorem State.specialFlags_eq (s : State) (v : Byte) :
    s.specialFlags v = ⟨decide (128 ≤ v.toNat), decide (v.toNat = 0), false, s.iff2, false, s.flags.c⟩ := by
  rw [State.specialFlags, byte_msb, byte_beq_zero]

/-- A gets a value with the flags that show it and IFF2, as `LD A,I` and `LD A,R` do. -/
theorem completes_of_loadSpecial {v : Byte} (henc : i.wellFormed = true → encode i = bytes)
    (hx : exec i s = .next (((s.setA v).writeFlags (s.specialFlags v)).advance bytes.length)) :
    Completes i bytes s [.a, .f, .draws] [] fun t => t.a = v ∧
      t.flags = ⟨decide (128 ≤ t.a.toNat), decide (t.a.toNat = 0), false, s.iff2, false, s.flags.c⟩ := by
  have hframe := (s.setA_unchanged v).append ((s.setA v).writeFlags_unchanged (s.specialFlags v))
  have hflags := State.flags_writeFlags (s.setA v) (s.specialFlags v)
  exact completes_of_advance _ henc hx rfl hframe (by decide) (fun _ _ => rfl)
    ⟨rfl, hflags.trans (s.specialFlags_eq v)⟩

end Sys2Proof.Machine
end

section
/-! The statements settled: the 8-bit loads. -/

namespace Sys2Proof.Machine

/-- Settles O1: a write of the register, before it one read where the source is in memory. -/
theorem loadByteRegister : Obligations.LoadByteRegister := by
  intro s
  refine ⟨fun rd rs => ?_, fun r n => ?_, fun r => ?_, ?_, ?_, fun mn => ?_⟩
  · exact completes_of_setR8 (fun _ => by cases rd <;> cases rs <;> rfl) rfl
  · exact completes_of_setR8 (fun _ => by cases r <;> rfl) rfl
  · exact completes_of_loadByte (fun _ => by cases r <;> rfl) rfl
  · exact completes_of_loadByte (r := .a) (fun _ => rfl) rfl
  · exact completes_of_loadByte (r := .a) (fun _ => rfl) rfl
  · exact completes_of_loadByte (r := .a) (fun _ => rfl) rfl

/-- Settles O2: each store is one write, at the address its rule names. -/
theorem storeByteMemory : Obligations.StoreByteMemory := by
  intro s
  refine ⟨fun r => ?_, fun n => ?_, ?_, ?_, fun mn => ?_⟩
  · exact completes_of_storeByte (fun _ => by cases r <;> rfl) rfl
  · exact completes_of_storeByte (fun _ => rfl) rfl
  · exact completes_of_storeByte (fun _ => rfl) rfl
  · exact completes_of_storeByte (fun _ => rfl) rfl
  · exact completes_of_storeByte (fun _ => rfl) rfl

/-- Settles O4: the loads of A write it and the flags that show IFF2, the loads of I and R one register. -/
theorem specialRegisterLoads : Obligations.SpecialRegisterLoads := by
  intro s
  refine ⟨?_, ?_, ?_, ?_⟩
  · exact completes_of_loadSpecial (fun _ => rfl) rfl
  · exact completes_of_loadSpecial (fun _ => rfl) rfl
  · exact completes_of_advance 2 (fun _ => rfl) rfl rfl (s.setI_unchanged s.a) (by decide) (fun _ _ => rfl) rfl
  · exact completes_of_advance 2 (fun _ => rfl) rfl rfl (s.setR_unchanged s.a) (by decide) (fun _ _ => rfl) rfl

end Sys2Proof.Machine
end

section
/-! Word registers and the instructions that move one word: into a register, from memory, to memory, onto the stack, and between
a register and the top of the stack (R160 to R171, R176, R177). -/

namespace Sys2Proof.Machine

/-- `set` writes a word to the register that `reg` reads, which is the parts `ch`, and changes nothing else; PC, the trace and
the queues of input bytes are no parts of it. -/
structure WritesWord (ch : List Loc) (reg : State → Word) (set : State → Word → State) : Prop where
  frame (s : State) (v : Word) : Unchanged ch s (set s v)
  mem (s : State) (v : Word) : (set s v).mem = s.mem
  value (s : State) (v : Word) (n : Nat) : reg ((set s v).advance n) = v
  disjoint : ∀ x ∈ [Loc.pc, .trace, .memIn, .ioIn], x ∉ ch

@[simp] theorem State.rdd_advance (s : State) (n : Nat) (r : RegDD) : (s.advance n).rdd r = s.rdd r := by cases r <;> rfl

theorem writesWord_setRdd (r : RegDD) : WritesWord (Loc.ofDD r) (fun t => t.rdd r) fun s v => s.setRdd r v where
  frame s v := (s.setRdd_spec r v).1
  mem s v := by simp
  value s v n := by simp
  disjoint := by cases r <;> decide

theorem writesWord_setIX : WritesWord [.ix] State.ix State.setIX where
  frame := State.setIX_unchanged
  mem _ _ := rfl
  value _ _ _ := rfl
  disjoint := by decide

theorem writesWord_setIY : WritesWord [.iy] State.iy State.setIY where
  frame := State.setIY_unchanged
  mem _ _ := rfl
  value _ _ _ := rfl
  disjoint := by decide

section
variable {ch : List Loc} {reg : State → Word} {set : State → Word → State} (w : WritesWord ch reg set)
  {s t : State} (v : Word)
include w

theorem WritesWord.pc_notMem : Loc.pc ∉ ch := w.disjoint .pc (by simp)

/-- A write of a register leaves memory cell by cell. -/
theorem WritesWord.memUnchanged : MemUnchanged [] s (set s v) := fun a _ => State.cell_of_mem (w.mem s v) a

/-- The transactions before a write of a register and `advance` are those after them. -/
theorem WritesWord.transacts {evs : List BusEvent} (n : Nat) (h : Transacts evs s t) :
    Transacts evs s ((set t v).advance n) :=
  h.congr (w.frame t v .trace (w.disjoint .trace (by simp))) (w.frame t v .memIn (w.disjoint .memIn (by simp)))
    (w.frame t v .ioIn (w.disjoint .ioIn (by simp))) (w.mem t v)

end

/-- More parts may be listed than change. -/
theorem Completes.mono {i : Instr} {bytes : List Byte} {s : State} {ch ch' : List Loc} {stored : List Word}
    {post : State → Prop} (h : Completes i bytes s ch stored post) (hs : ch ⊆ ch') : Completes i bytes s ch' stored post := by
  obtain ⟨henc, t, hx, hframe, hmem, hpost⟩ := h
  exact ⟨henc, t, hx, hframe.mono (List.cons_subset_cons .pc hs), hmem, hpost⟩

section
variable {i : Instr} {bytes : List Byte} {s : State} {a v : Word}
  {ch : List Loc} {reg : State → Word} {set : State → Word → State}

/-- A register gets a word that is not read from memory. -/
theorem completes_of_setWord (w : WritesWord ch reg set) (henc : i.wellFormed = true → encode i = bytes)
    (hx : exec i s = .next ((set s v).advance bytes.length)) : Completes i bytes s ch [] fun t => reg t = v :=
  completes_of_advance _ henc hx rfl (w.frame s v) w.pc_notMem (w.memUnchanged v) (w.value s v _)

/-- A register gets the word at an address, read low byte first (R63). -/
theorem completes_of_loadWord (w : WritesWord ch reg set) (henc : i.wellFormed = true → encode i = bytes)
    (hx : exec i s = .next ((set (s.readWordDone a) (s.readWord a)).advance bytes.length)) :
    Completes i bytes s (.memIn :: .draws :: .trace :: ch) [] fun t =>
      (reg t).toNat = s.wordAt a ∧ Transacts (s.wordRead a) s t := by
  obtain ⟨hread, hmem, htrans⟩ := s.readWordDone_spec a
  have hframe := hread.append (w.frame (s.readWordDone a) (s.readWord a))
  have hval : (reg ((set (s.readWordDone a) (s.readWord a)).advance bytes.length)).toNat = s.wordAt a := by
    rw [w.value, State.readWord_toNat]
  exact completes_of_advance _ henc hx rfl hframe (by simpa using w.pc_notMem) (hmem.trans (w.memUnchanged _))
    ⟨hval, w.transacts _ _ htrans⟩

/-- A word is stored, low byte first (R63). -/
theorem completes_of_storeWord (henc : i.wellFormed = true → encode i = bytes)
    (hx : exec i s = .next ((s.writeWord a v).advance bytes.length)) :
    Completes i bytes s [.trace] [a, a + 1] fun t => StoredWord a v [] s t := by
  obtain ⟨hframe, hmem, hi, lo, hword, htrans⟩ := s.writeWord_spec a v
  exact completes_of_advance _ henc hx rfl hframe (by decide) hmem ⟨hi, lo, hword, htrans.congr rfl rfl rfl rfl⟩

/-- A word is pushed, high byte first (R65). -/
theorem completes_of_push (henc : i.wellFormed = true → encode i = bytes)
    (hx : exec i s = .next ((s.push16 v).advance bytes.length)) :
    Completes i bytes s [.sp, .trace] [s.sp - 1, s.sp - 2] fun t => PushedWord v [] s t := by
  obtain ⟨hframe, hmem, hsp, hi, lo, hword, htrans⟩ := s.push16_spec v
  exact completes_of_advance _ henc hx rfl hframe (by decide) hmem ⟨hsp, hi, lo, hword, htrans.congr rfl rfl rfl rfl⟩

/-- A register gets the word on top of the stack, and the word `v` is stored in its place (R176, R177). -/
theorem completes_of_exchangeTop (w : WritesWord ch reg set) (henc : i.wellFormed = true → encode i = bytes)
    (hx : exec i s = .next ((set (s.storeTop v) s.topWord).advance bytes.length)) :
    Completes i bytes s (.memIn :: .draws :: .trace :: ch) [s.sp, s.sp + 1] fun t =>
      (reg t).toNat = s.wordAt s.sp ∧ StoredWord s.sp v (s.wordRead s.sp) s t := by
  obtain ⟨hstore, hmem, hi, lo, hword, htrans⟩ := s.storeTop_spec v
  have hframe := hstore.append (w.frame (s.storeTop v) s.topWord)
  have hval : (reg ((set (s.storeTop v) s.topWord).advance bytes.length)).toNat = s.wordAt s.sp := by
    rw [w.value, State.topWord, State.readWord_toNat]
  exact completes_of_advance _ henc hx rfl hframe (by simpa using w.pc_notMem) (hmem.trans (w.memUnchanged _))
    ⟨hval, hi, lo, hword, w.transacts _ _ htrans⟩

end

theorem State.swapAF_unchanged (s : State) : Unchanged [.a, .f, .aAlt, .fAlt] s s.swapAF :=
  fun x hx => by cases x <;> simp_all [Loc.Same]

theorem State.swapBank_unchanged (s : State) :
    Unchanged [.b, .c, .d, .e, .h, .l, .bAlt, .cAlt, .dAlt, .eAlt, .hAlt, .lAlt] s s.swapBank :=
  fun x hx => by cases x <;> simp_all [Loc.Same]

end Sys2Proof.Machine
end

section
/-! The statements settled: the 16-bit loads, the pushes and the exchanges. -/

namespace Sys2Proof.Machine

/-- Settles O5: each is one write of a word register; SP is the register 11 of the `dd` field. -/
theorem loadWordRegister : Obligations.LoadWordRegister := by
  intro s
  refine ⟨fun dd mn => ?_, fun mn => ?_, fun mn => ?_, ?_, ?_, ?_⟩
  · exact completes_of_setWord (writesWord_setRdd dd) (fun _ => by cases dd <;> rfl) rfl
  · exact completes_of_setWord writesWord_setIX (fun _ => rfl) rfl
  · exact completes_of_setWord writesWord_setIY (fun _ => rfl) rfl
  · exact completes_of_setWord (writesWord_setRdd .sp) (fun _ => rfl) rfl
  · exact completes_of_setWord (writesWord_setRdd .sp) (fun _ => rfl) rfl
  · exact completes_of_setWord (writesWord_setRdd .sp) (fun _ => rfl) rfl

/-- Settles O6: each reads a word, which is the two bytes in memory or queued, and writes it to its register. -/
theorem loadWordFromMemory : Obligations.LoadWordFromMemory := by
  intro s
  refine ⟨s.readGives, fun mn => ?_, fun dd mn => ?_, fun mn => ?_, fun mn => ?_⟩
  · exact (completes_of_loadWord (writesWord_setRdd .hl) (fun _ => rfl) rfl).mono (by simp [Loc.ofDD])
  · exact completes_of_loadWord (writesWord_setRdd dd) (fun _ => by cases dd <;> rfl) rfl
  · exact (completes_of_loadWord writesWord_setIX (fun _ => rfl) rfl).mono (by simp)
  · exact (completes_of_loadWord writesWord_setIY (fun _ => rfl) rfl).mono (by simp)

/-- Settles O7: each is `writeWord` of its register. -/
theorem storeWordToMemory : Obligations.StoreWordToMemory := by
  intro s
  refine ⟨fun mn => ?_, fun mn ss => ?_, fun mn => ?_, fun mn => ?_⟩
  · exact completes_of_storeWord (fun _ => rfl) rfl
  · exact completes_of_storeWord (fun _ => by cases ss <;> rfl) rfl
  · exact completes_of_storeWord (fun _ => rfl) rfl
  · exact completes_of_storeWord (fun _ => rfl) rfl

/-- Settles O8: each is `push16` of its register. -/
theorem pushStoresWord : Obligations.PushStoresWord := by
  intro s
  refine ⟨fun tt => ?_, ?_, ?_⟩
  · exact completes_of_push (fun _ => by cases tt <;> rfl) rfl
  · exact completes_of_push (fun _ => rfl) rfl
  · exact completes_of_push (fun _ => rfl) rfl

/-- Settles O10: the first two are one swap each; `EX DE,HL` writes DE and then HL with words read before either write. -/
theorem exchangeRegisters : Obligations.ExchangeRegisters := by
  intro s
  refine ⟨?_, ?_, ?_⟩
  · exact completes_of_advance 1 (fun _ => rfl) rfl rfl s.swapAF_unchanged (by decide) (fun _ _ => rfl) ⟨rfl, rfl, rfl, rfl⟩
  · exact completes_of_advance 1 (fun _ => rfl) rfl rfl s.swapBank_unchanged (by decide) (fun _ _ => rfl)
      ⟨rfl, rfl, rfl, rfl, rfl, rfl, rfl, rfl, rfl, rfl, rfl, rfl⟩
  · have hde := (writesWord_setRdd .de).frame s s.hl
    have hhl := (writesWord_setRdd .hl).frame (s.setDE s.hl) s.de
    exact completes_of_advance 1 (fun _ => rfl) rfl rfl (hde.append hhl) (by decide) (fun _ _ => rfl)
      (by simp [State.hl, State.de])

/-- Settles O11: each is `storeTop` of its register, then a write of the register with the word that was on top. -/
theorem exchangeWithStackTop : Obligations.ExchangeWithStackTop := by
  intro s
  refine ⟨?_, ?_, ?_⟩
  · exact (completes_of_exchangeTop (writesWord_setRdd .hl) (fun _ => rfl) rfl).mono (by simp [Loc.ofDD])
  · exact (completes_of_exchangeTop writesWord_setIX (fun _ => rfl) rfl).mono (by simp)
  · exact (completes_of_exchangeTop writesWord_setIY (fun _ => rfl) rfl).mono (by simp)

end Sys2Proof.Machine
end

section
/-! What the accumulator operations share: the flags in exact arithmetic, and an operand that is read before A and F are
written (R190 to R198). -/

namespace Sys2Proof.Machine

/-- The flags of an addition in exact arithmetic (R191, D21). -/
theorem arithFlags_add8 (a b : Byte) (c : Bool) : arithFlags (add8 a b c) false =
    { s := decide (128 ≤ (add8 a b c).r.toNat)
      z := decide ((add8 a b c).r.toNat = 0)
      h := decide (15 < a.toNat % 16 + b.toNat % 16 + c.toNat)
      pv := decide (a.toInt + b.toInt + c.toNat < -128 ∨ 127 < a.toInt + b.toInt + c.toNat)
      n := false
      c := decide (255 < a.toNat + b.toNat + c.toNat) } := by
  rw [arithFlags, byte_msb, byte_beq_zero, add8_v]
  rfl

/-- The flags of a subtraction in exact arithmetic (R193, D21). -/
theorem arithFlags_sub8 (a b : Byte) (c : Bool) :
    arithFlags (sub8 a b c) true = borrowFlags a b c (sub8 a b c).r.toNat := by
  rw [arithFlags, byte_msb, byte_beq_zero, sub8_v]
  rfl

/-- The flags of the logic operations by number and by counting ones (R195 to R197). -/
theorem logicFlags_eq (r : Byte) (h : Bool) :
    logicFlags r h = ⟨decide (128 ≤ r.toNat), decide (r.toNat = 0), h, evenOnes r, false, false⟩ := by
  rw [logicFlags, byte_msb, byte_beq_zero, parityEven_iff]
  rfl

/-- The zero flag of a difference says that its two bytes are equal. -/
theorem sub8_r_toNat_eq_zero_iff (a b : Byte) : (sub8 a b false).r.toNat = 0 ↔ a = b := by
  have h := sub8_r a b false
  have ha := a.isLt
  have hb := b.isLt
  rw [← BitVec.toNat_inj]
  simp only [Bool.toNat_false] at h
  omega

theorem Completes.imp {i : Instr} {bytes : List Byte} {s : State} {ch : List Loc} {stored : List Word}
    {post post' : State → Prop} (h : Completes i bytes s ch stored post) (hp : ∀ t, post t → post' t) :
    Completes i bytes s ch stored post' := by
  obtain ⟨henc, t, hx, hframe, hmem, hpc, hpost⟩ := h
  exact ⟨henc, t, hx, hframe, hmem, hpc, hp t hpost⟩

/-- A part that writes neither memory nor the trace nor the queues makes no transaction. -/
theorem Transacts.of_unchanged {evs : List BusEvent} {ch : List Loc} {s t u : State} (h : Transacts evs s t)
    (hu : Unchanged ch t u) (hm : MemUnchanged [] t u) (hd : ∀ x ∈ [Loc.trace, .memIn, .ioIn], x ∉ ch) :
    Transacts evs s u := by
  obtain ⟨htrace, hmemIn, hioIn, hcell⟩ := h
  exact ⟨(hu .trace (hd .trace (by simp))).trans htrace, (hu .memIn (hd .memIn (by simp))).trans hmemIn,
    (hu .ioIn (hd .ioIn (by simp))).trans hioIn, fun a => (hm a (by simp)).trans (hcell a)⟩

/-- From `s`, the reads of an operand lead to `u`, and do nothing else. -/
def ReadsOperand (reads : List BusEvent) (s u : State) : Prop :=
  Unchanged [.memIn, .draws, .trace] s u ∧ MemUnchanged [] s u ∧ Transacts reads s u

/-- An operand in a register or in the instruction needs no read. -/
theorem readsOperand_nil (s : State) : ReadsOperand [] s s :=
  ⟨Unchanged.refl _ s, MemUnchanged.refl _ s, Transacts.refl s⟩

theorem readsOperand_readDone (s : State) (a : Word) : ReadsOperand (s.byteRead a) s (s.readDone a) := s.readDone_spec a

/-- The instruction reads its operand `src`, does `f` with it and advances. -/
def Operates (s : State) (f : State → Byte → State) (i : Instr) (bytes : List Byte) (src : Byte) (reads : List BusEvent) :
    Prop :=
  encode i = bytes ∧ ∃ u, ReadsOperand reads s u ∧ exec i s = .next ((f u src).advance bytes.length)

/-- What an instruction that operates on an operand completes with: what the reads and what the operation change, and after it
what is true of the operation on any state with the same A. -/
theorem Operates.completes {s : State} {f : State → Byte → State} {i : Instr} {bytes : List Byte} {src : Byte}
    {reads : List BusEvent} {ch : List Loc} {post : State → Prop} (h : Operates s f i bytes src reads)
    (hf : ∀ u, u.a = s.a →
      Unchanged ch u (f u src) ∧ MemUnchanged [] u (f u src) ∧ ∀ n, post ((f u src).advance n))
    (hd : ∀ x ∈ [Loc.pc, .trace, .memIn, .ioIn], x ∉ ch := by decide) :
    Completes i bytes s ([.memIn, .draws, .trace] ++ ch) [] fun t => Transacts reads s t ∧ post t := by
  obtain ⟨henc, u, ⟨hread, hreadMem, htrans⟩, hx⟩ := h
  obtain ⟨hop, hopMem, hpost⟩ := hf u (hread .a (by decide))
  obtain ⟨hpc, hd⟩ := List.forall_mem_cons.mp hd
  have htransOp := htrans.of_unchanged hop hopMem hd
  exact completes_of_advance _ (fun _ => henc) hx rfl (hread.append hop) (by simpa using hpc) (hreadMem.trans hopMem)
    ⟨htransOp.congr rfl rfl rfl rfl, hpost _⟩

section
variable {s : State} {onR : Reg8 → Instr} {onHl : Instr} {onN onIx onIy : Byte → Instr} {op : Byte}

theorem AluForms.imp {P Q : Instr → List Byte → Byte → List BusEvent → Prop}
    (h : AluForms s onR onHl onN onIx onIy op P)
    (hPQ : ∀ {i bytes src reads}, P i bytes src reads → Q i bytes src reads) :
    AluForms s onR onHl onN onIx onIy op Q := by
  obtain ⟨hr, hhl, hn, hix, hiy⟩ := h
  exact ⟨fun r => hPQ (hr r), hPQ hhl, fun n => hPQ (hn n), fun d => hPQ (hix d), fun d => hPQ (hiy d)⟩

/-- The five operand forms of one operation: the encodings of R190, and `exec` of each the operation on the operand. -/
theorem aluForms_operates {f : State → Byte → State} (encR : ∀ r, encode (onR r) = [op + r.code])
    (encHl : encode onHl = [op + 6#8] := by rfl)
    (encN : ∀ n, encode (onN n) = [op + 0x46#8, n] := by intro; rfl)
    (encIx : ∀ d, encode (onIx d) = [0xDD#8, op + 6#8, d] := by intro; rfl)
    (encIy : ∀ d, encode (onIy d) = [0xFD#8, op + 6#8, d] := by intro; rfl)
    (execR : ∀ r, exec (onR r) s = .next ((f s (s.r8 r)).advance 1) := by intro; rfl)
    (execHl : exec onHl s = .next ((f (s.readDone s.hl) (s.readByte s.hl)).advance 1) := by rfl)
    (execN : ∀ n, exec (onN n) s = .next ((f s n).advance 2) := by intro; rfl)
    (execIx : ∀ d, exec (onIx d) s = .next ((f (s.readDone (s.eaIX d)) (s.readByte (s.eaIX d))).advance 3) := by
      intro; rfl)
    (execIy : ∀ d, exec (onIy d) s = .next ((f (s.readDone (s.eaIY d)) (s.readByte (s.eaIY d))).advance 3) := by
      intro; rfl) :
    AluForms s onR onHl onN onIx onIy op (Operates s f) :=
  ⟨fun r => ⟨encR r, s, readsOperand_nil s, execR r⟩,
    ⟨encHl, _, readsOperand_readDone s _, execHl⟩,
    fun n => ⟨encN n, s, readsOperand_nil s, execN n⟩,
    fun d => ⟨encIx d, _, readsOperand_readDone s _, execIx d⟩,
    fun d => ⟨encIy d, _, readsOperand_readDone s _, execIy d⟩⟩

end

section
variable {s : State} {f : State → Byte → State} {i : Instr} {bytes : List Byte} {src : Byte} {reads : List BusEvent}
  {cin : Bool}

theorem Operates.addsToA (h : Operates s (fun u v => u.accAdd v cin) i bytes src reads) :
    AddsToA s cin i bytes src reads := by
  refine (h.completes (ch := [.a, .f, .draws]) fun u ha => ?_).mono (by simp)
  obtain ⟨hframe, hmem, hval, hflags⟩ := u.accAdd_spec src cin
  rw [ha] at hval hflags
  exact ⟨hframe, hmem, fun n => ⟨by rw [State.advance_a, hval, add8_r],
    by rw [State.advance_a, State.advance_flags, hval, hflags, arithFlags_add8]⟩⟩

theorem Operates.subtractsFromA (h : Operates s (fun u v => u.accSub v cin) i bytes src reads) :
    SubtractsFromA s cin i bytes src reads := by
  refine (h.completes (ch := [.a, .f, .draws]) fun u ha => ?_).mono (by simp)
  obtain ⟨hframe, hmem, hval, hflags⟩ := u.accSub_spec src cin
  rw [ha] at hval hflags
  exact ⟨hframe, hmem, fun n => ⟨by rw [State.advance_a, hval, sub8_r],
    by rw [State.advance_a, State.advance_flags, hval, hflags, arithFlags_sub8]⟩⟩

theorem Operates.comparesWithA (h : Operates s State.accCompare i bytes src reads) :
    ComparesWithA s i bytes src reads := by
  refine (h.completes (ch := [.f, .draws]) fun u ha => ?_).mono (by simp)
  obtain ⟨hframe, hmem, hflags⟩ := u.accCompare_spec src
  rw [ha, arithFlags_sub8] at hflags
  have hr : (((s.a.toNat : Int) - src.toNat) % 256).toNat = (sub8 s.a src false).r.toNat := by
    have := sub8_r s.a src false
    simp only [Bool.toNat_false] at this
    omega
  refine ⟨hframe, hmem, fun n => ?_⟩
  rw [State.advance_flags, hflags, hr]
  simp [borrowFlags, sub8_r_toNat_eq_zero_iff]

/-- A logic operation, from what it writes and from its bits. -/
theorem Operates.combinesWithA {op : Bool → Bool → Bool} {bits : Byte → Byte → Byte} {hbit : Bool}
    (h : Operates s f i bytes src reads)
    (hf : ∀ u, Unchanged [.a, .f, .draws] u (f u src) ∧ MemUnchanged [] u (f u src) ∧ (f u src).a = bits u.a src ∧
      (f u src).flags = logicFlags (bits u.a src) hbit)
    (hbits : ∀ x y k, (bits x y).getLsbD k = op (x.getLsbD k) (y.getLsbD k)) :
    CombinesWithA s op hbit i bytes src reads := by
  refine (h.completes (ch := [.a, .f, .draws]) fun u ha => ?_).mono (by simp)
  obtain ⟨hframe, hmem, hval, hflags⟩ := hf u
  rw [ha] at hval hflags
  exact ⟨hframe, hmem, fun n => ⟨fun k _ => by rw [State.advance_a, hval, hbits],
    by rw [State.advance_a, State.advance_flags, hval, hflags, logicFlags_eq]⟩⟩

end

end Sys2Proof.Machine
end

section
/-! INC and DEC of a byte, and the operations on A and F without an operand (R199 to R205). -/

namespace Sys2Proof.Machine

@[simp] theorem State.r8_advance (s : State) (n : Nat) (r : Reg8) : (s.advance n).r8 r = s.r8 r := by cases r <;> rfl

/-- INC by its flags: no carry comes in, and the byte added is 1 (R199). -/
theorem isIncrement_of_flags {s t : State} {v : Byte} (h : t.flags = s.incFlags v) :
    IsIncrement v (add8 v 1#8 false).r s t := by
  have hv := v.isLt
  refine ⟨by rw [add8_r]; rfl, ?_⟩
  have hint := byte_toInt v
  have one_toInt : (1#8).toInt = 1 := rfl
  rw [h, State.incFlags, arithFlags_add8]
  simp only [Flags.mk.injEq, decide_eq_decide, true_and, and_true, BitVec.toNat_ofNat, Bool.toNat_false, one_toInt]
  split at hint <;> omega

/-- DEC by its flags: no borrow comes in, and the byte subtracted is 1 (R200). -/
theorem isDecrement_of_flags {s t : State} {v : Byte} (h : t.flags = s.decFlags v) :
    IsDecrement v (sub8 v 1#8 false).r s t := by
  have hv := v.isLt
  refine ⟨by rw [sub8_r]; simp, ?_⟩
  have hint := byte_toInt v
  have one_toInt : (1#8).toInt = 1 := rfl
  rw [h, State.decFlags, arithFlags_sub8]
  simp only [borrowFlags, Flags.mk.injEq, decide_eq_decide, true_and, and_true, BitVec.toNat_ofNat, Bool.toNat_false, one_toInt]
  split at hint <;> omega

section
variable {i : Instr} {bytes : List Byte} {s t : State} {v : Byte} {fl : Flags} {P : Byte → Byte → State → State → Prop}

theorem stepsRegister_of_spec {r : Reg8} (henc : encode i = bytes) (hx : exec i s = .next (t.advance bytes.length))
    (hspec : Unchanged [.ofReg8 r, .f, .draws] s t ∧ MemUnchanged [] s t ∧ t.r8 r = v ∧ t.flags = fl)
    (hP : ∀ u : State, u.flags = fl → P (s.r8 r) v s u) : StepsRegister i bytes s r P := by
  obtain ⟨hframe, hmem, hval, hflags⟩ := hspec
  refine completes_of_advance _ (fun _ => henc) hx rfl hframe (by cases r <;> decide) hmem ?_
  rw [State.r8_advance, hval]
  exact hP _ hflags

theorem stepsMemory_of_spec {a : Word} (henc : encode i = bytes) (hx : exec i s = .next (t.advance bytes.length))
    (hspec : Unchanged [.f, .memIn, .draws, .trace] s t ∧ MemUnchanged [a] s t ∧
      Transacts (s.byteRead a ++ [.memWrite a v]) s t ∧ t.flags = fl)
    (hP : ∀ u : State, u.flags = fl → P (s.readByte a) v s u) : StepsMemory i bytes s a P := by
  obtain ⟨hframe, hmem, htrans, hflags⟩ := hspec
  exact completes_of_advance _ (fun _ => henc) hx rfl hframe (by decide) hmem
    ⟨v, hP _ hflags, htrans.congr rfl rfl rfl rfl⟩

theorem completes_of_writeFlags (henc : encode i = bytes)
    (hx : exec i s = .next ((s.writeFlags fl).advance bytes.length)) :
    Completes i bytes s [.f, .draws] [] fun t => t.flags = fl :=
  completes_of_advance _ (fun _ => henc) hx rfl (s.writeFlags_unchanged fl) (by decide) (fun _ _ => rfl)
    (s.flags_writeFlags fl)

theorem completes_of_setA_writeFlags (henc : encode i = bytes)
    (hx : exec i s = .next (((s.setA v).writeFlags fl).advance bytes.length)) :
    Completes i bytes s [.a, .f, .draws] [] fun t => t.a = v ∧ t.flags = fl :=
  completes_of_advance _ (fun _ => henc) hx rfl ((s.setA_unchanged v).append ((s.setA v).writeFlags_unchanged fl))
    (by decide) (fun _ _ => rfl) ⟨rfl, (s.setA v).flags_writeFlags fl⟩

end

/-- The flags of a subtraction from 0 (R203). -/
theorem borrowFlags_zero (a : Byte) (r : Nat) : borrowFlags 0#8 a false r =
    ⟨decide (128 ≤ r), decide (r = 0), decide (a.toNat % 16 ≠ 0), decide (a.toNat = 128), true,
      decide (a.toNat ≠ 0)⟩ := by
  have ha := a.isLt
  have hint := byte_toInt a
  have zero_toInt : (0#8).toInt = 0 := rfl
  simp only [borrowFlags, Flags.mk.injEq, decide_eq_decide, true_and, BitVec.toNat_ofNat, Bool.toNat_false, zero_toInt]
  split at hint <;> omega

end Sys2Proof.Machine
end

section
/-! DAA by its table: the rows exclude each other, so the row that fits is the one taken (R201). -/

namespace Sys2Proof.Machine

/-- Some flags and some byte fit both rows. -/
def DaaRow.overlaps (p q : DaaRow) : Bool :=
  p.n == q.n && p.c == q.c && p.h == q.h && decide (p.hiMin ≤ q.hiMax) && decide (q.hiMin ≤ p.hiMax)
    && decide (p.loMin ≤ q.loMax) && decide (q.loMin ≤ p.loMax)

theorem daaTable_eq_of_overlaps : ∀ p ∈ daaTable, ∀ q ∈ daaTable, p.overlaps q = true → p = q := by decide

theorem DaaRow.overlaps_of_fits {a : Byte} {fl : Flags} {p q : DaaRow} (hp : daaRowFits a fl p = true)
    (hq : daaRowFits a fl q = true) : p.overlaps q = true := by
  simp only [daaRowFits, DaaRow.overlaps, Bool.and_eq_true, beq_iff_eq, decide_eq_true_eq] at hp hq ⊢
  grind

theorem daaRow_eq_some_of_fits {a : Byte} {fl : Flags} {row : DaaRow} (hrow : row ∈ daaTable)
    (hfit : daaRowFits a fl row = true) : daaRow a fl = some row := by
  have hfound : (daaRow a fl).isSome := List.find?_isSome.mpr ⟨row, hrow, hfit⟩
  obtain ⟨q, hq⟩ := Option.isSome_iff_exists.mp hfound
  have hover := DaaRow.overlaps_of_fits (List.find?_some hq) hfit
  rw [hq, daaTable_eq_of_overlaps q (List.mem_of_find?_eq_some hq) row hrow hover]

/-- A row of the table takes the byte `v` with the flags N, C and H to the byte `r` with carry `cOut`. -/
def DaaRow.Takes (row : DaaRow) (n c h : Bool) (v r : Nat) (cOut : Bool) : Prop :=
  row ∈ daaTable ∧ row.n = n ∧ row.c = c ∧ row.h = h ∧ row.hiMin ≤ v / 16 ∧ v / 16 ≤ row.hiMax ∧
    row.loMin ≤ v % 16 ∧ v % 16 ≤ row.loMax ∧ (v + row.add.toNat) % 256 = r ∧ row.cAfter = cOut

/-- DAA follows the row that takes A. -/
theorem State.decimalAdjust_of_takes {s : State} {row : DaaRow} {r : Nat} {cOut : Bool}
    (h : row.Takes s.flags.n s.flags.c s.flags.h s.a.toNat r cOut) :
    s.decimalAdjust.a.toNat = r ∧ s.decimalAdjust.flags.c = cOut := by
  obtain ⟨hrow, hn, hc, hh, hhi, hhi', hlo, hlo', hadd, hcOut⟩ := h
  have hfit : daaRowFits s.a s.flags row = true := by simp [daaRowFits, *]
  obtain ⟨ha, hcarry⟩ := State.decimalAdjust_of_row (daaRow_eq_some_of_fits hrow hfit)
  exact ⟨by rw [ha, BitVec.toNat_add, hadd], hcarry.trans hcOut⟩

theorem packedBcd_toNat {x : Nat} (hx : x < 100) : (packedBcd x).toNat = 16 * (x / 10) + x % 10 := by
  rw [packedBcd, BitVec.toNat_ofNat]
  omega

theorem packedBcd_digits {p q : Nat} (hp : p ≤ 9) (hq : q ≤ 9) : (packedBcd (10 * p + q)).toNat = 16 * p + q := by
  rw [packedBcd_toNat (by omega)]
  omega

/-- The row after an addition, with the decimal digits and the carry it makes. `p` is the sum of the high digits, `q` that of
the low digits and the carry: the low digit is right as it is, or 6 is added with or without a half carry; then the high one. -/
theorem exists_daaRow_of_sum {p q : Nat} (hp : p ≤ 18) (hq : q ≤ 19) : ∃ (row : DaaRow) (hi lo : Nat) (cOut : Bool),
    row.Takes false (decide (255 < 16 * p + q)) (decide (15 < q)) ((16 * p + q) % 256) (16 * hi + lo) cOut ∧
      hi ≤ 9 ∧ lo ≤ 9 ∧ 10 * p + q = 100 * cOut.toNat + 10 * hi + lo := by
  rcases (by omega : q ≤ 9 ∨ (10 ≤ q ∧ q ≤ 15) ∨ 16 ≤ q) with hlo | hlo | hlo
  · rcases (by omega : p ≤ 9 ∨ (10 ≤ p ∧ p ≤ 15) ∨ 16 ≤ p) with hhi | hhi | hhi
    · exact ⟨⟨false, false, 0x0, 0x9, false, 0x0, 0x9, 0x00#8, false⟩, p, q, false,
        by simp [DaaRow.Takes, daaTable]; omega⟩
    · exact ⟨⟨false, false, 0xA, 0xF, false, 0x0, 0x9, 0x60#8, true⟩, p - 10, q, true,
        by simp [DaaRow.Takes, daaTable]; omega⟩
    · exact ⟨⟨false, true, 0x0, 0x2, false, 0x0, 0x9, 0x60#8, true⟩, p - 10, q, true,
        by simp [DaaRow.Takes, daaTable]; omega⟩
  · rcases (by omega : p ≤ 8 ∨ (9 ≤ p ∧ p ≤ 15) ∨ 16 ≤ p) with hhi | hhi | hhi
    · exact ⟨⟨false, false, 0x0, 0x8, false, 0xA, 0xF, 0x06#8, false⟩, p + 1, q - 10, false,
        by simp [DaaRow.Takes, daaTable]; omega⟩
    · exact ⟨⟨false, false, 0x9, 0xF, false, 0xA, 0xF, 0x66#8, true⟩, p - 9, q - 10, true,
        by simp [DaaRow.Takes, daaTable]; omega⟩
    · exact ⟨⟨false, true, 0x0, 0x2, false, 0xA, 0xF, 0x66#8, true⟩, p - 9, q - 10, true,
        by simp [DaaRow.Takes, daaTable]; omega⟩
  · rcases (by omega : p ≤ 8 ∨ (9 ≤ p ∧ p ≤ 14) ∨ 15 ≤ p) with hhi | hhi | hhi
    · exact ⟨⟨false, false, 0x0, 0x9, true, 0x0, 0x3, 0x06#8, false⟩, p + 1, q - 10, false,
        by simp [DaaRow.Takes, daaTable]; omega⟩
    · exact ⟨⟨false, false, 0xA, 0xF, true, 0x0, 0x3, 0x66#8, true⟩, p - 9, q - 10, true,
        by simp [DaaRow.Takes, daaTable]; omega⟩
    · exact ⟨⟨false, true, 0x0, 0x3, true, 0x0, 0x3, 0x66#8, true⟩, p - 9, q - 10, true,
        by simp [DaaRow.Takes, daaTable]; omega⟩

/-- The row after a subtraction of the digits `y1`, `y0` and a borrow from the digits `x1`, `x0`, with the decimal digits and
the borrow it makes: two rows without a half borrow, two with. -/
theorem exists_daaRow_of_difference {x1 x0 y1 y0 v : Nat} (b : Bool) (hx1 : x1 ≤ 9) (hx0 : x0 ≤ 9) (hy1 : y1 ≤ 9)
    (hy0 : y0 ≤ 9) (hv : (v : Int) = ((16 * x1 + x0 : Int) - (16 * y1 + y0) - b.toNat) % 256) :
    ∃ (row : DaaRow) (hi lo : Nat) (bOut : Bool),
      row.Takes true (decide (16 * x1 + x0 < 16 * y1 + y0 + b.toNat)) (decide (x0 < y0 + b.toNat)) v (16 * hi + lo) bOut ∧
        hi ≤ 9 ∧ lo ≤ 9 ∧ 10 * x1 + x0 + 100 * bOut.toNat = 10 * y1 + y0 + b.toNat + 10 * hi + lo := by
  have hb := bool_toNat_le b
  rcases Nat.lt_or_ge x0 (y0 + b.toNat) with hlo | hlo
  · rcases Nat.lt_or_ge y1 x1 with hhi | hhi
    · exact ⟨⟨true, false, 0x0, 0x8, true, 0x6, 0xF, 0xFA#8, false⟩, x1 - y1 - 1, x0 + 10 - y0 - b.toNat, false,
        by simp [DaaRow.Takes, daaTable]; omega⟩
    · exact ⟨⟨true, true, 0x6, 0xF, true, 0x6, 0xF, 0x9A#8, true⟩, x1 + 9 - y1, x0 + 10 - y0 - b.toNat, true,
        by simp [DaaRow.Takes, daaTable]; omega⟩
  · rcases Nat.lt_or_ge x1 y1 with hhi | hhi
    · exact ⟨⟨true, true, 0x7, 0xF, false, 0x0, 0x9, 0xA0#8, true⟩, x1 + 10 - y1, x0 - y0 - b.toNat, true,
        by simp [DaaRow.Takes, daaTable]; omega⟩
    · exact ⟨⟨true, false, 0x0, 0x9, false, 0x0, 0x9, 0x00#8, false⟩, x1 - y1, x0 - y0 - b.toNat, false,
        by simp [DaaRow.Takes, daaTable]; omega⟩

/-- Where the row makes the digits of `r` and the carry `c`, DAA leaves the packed-BCD byte of `r` and that carry. -/
theorem State.decimalAdjust_of_digits {s : State} {row : DaaRow} {hi lo r : Nat} {n h cIn cOut c : Bool}
    (ht : row.Takes n cIn h s.a.toNat (16 * hi + lo) cOut) (hn : s.flags.n = n) (hc : s.flags.c = cIn)
    (hh : s.flags.h = h) (hhi : hi ≤ 9) (hlo : lo ≤ 9) (hr : 10 * hi + lo = r) (hcOut : cOut = c) :
    s.decimalAdjust.a = packedBcd r ∧ s.decimalAdjust.flags.c = c := by
  subst hn hc hh hr hcOut
  obtain ⟨ha, hcarry⟩ := State.decimalAdjust_of_takes ht
  exact ⟨BitVec.eq_of_toNat_eq (ha.trans (packedBcd_digits hhi hlo).symm), hcarry⟩

section
variable {t : State} {x y : Nat} {c : Bool} (hx : x < 100) (hy : y < 100)
include hx hy

/-- DAA after the binary sum of two packed-BCD bytes and a carry (R192, R201). -/
theorem State.decimalAdjust_of_add8 (ha : t.a = (add8 (packedBcd x) (packedBcd y) c).r)
    (hf : t.flags = arithFlags (add8 (packedBcd x) (packedBcd y) c) false) :
    t.decimalAdjust.a = packedBcd ((x + y + c.toNat) % 100) ∧
      t.decimalAdjust.flags.c = decide (100 ≤ x + y + c.toNat) := by
  have hc := bool_toNat_le c
  rw [arithFlags_add8, packedBcd_toNat hx, packedBcd_toNat hy] at hf
  have hv := add8_r (packedBcd x) (packedBcd y) c
  rw [← ha, packedBcd_toNat hx, packedBcd_toNat hy] at hv
  have hsum : 16 * (x / 10 + y / 10) + (x % 10 + y % 10 + c.toNat) =
      16 * (x / 10) + x % 10 + (16 * (y / 10) + y % 10) + c.toNat := by omega
  obtain ⟨row, hi, lo, cOut, ht, hhi, hlo, hdigits⟩ :=
    exists_daaRow_of_sum (p := x / 10 + y / 10) (q := x % 10 + y % 10 + c.toNat) (by omega) (by omega)
  rw [hsum, ← hv] at ht
  refine State.decimalAdjust_of_digits ht (by rw [hf]) (by rw [hf]) ?_ hhi hlo ?_ ?_
  · rw [hf, decide_eq_decide]; omega
  · have := bool_toNat_le cOut
    omega
  · cases cOut <;> simp at hdigits ⊢ <;> omega

/-- DAA after the binary difference of two packed-BCD bytes and a borrow (R194, R201). -/
theorem State.decimalAdjust_of_sub8 (ha : t.a = (sub8 (packedBcd x) (packedBcd y) c).r)
    (hf : t.flags = arithFlags (sub8 (packedBcd x) (packedBcd y) c) true) :
    t.decimalAdjust.a = packedBcd ((x + 100 - y + 100 - c.toNat) % 100) ∧
      t.decimalAdjust.flags.c = decide (x < y + c.toNat) := by
  have hc := bool_toNat_le c
  rw [arithFlags_sub8, borrowFlags, packedBcd_toNat hx, packedBcd_toNat hy] at hf
  have hv := sub8_r (packedBcd x) (packedBcd y) c
  rw [← ha, packedBcd_toNat hx, packedBcd_toNat hy] at hv
  obtain ⟨row, hi, lo, cOut, ht, hhi, hlo, hdigits⟩ :=
    exists_daaRow_of_difference (x1 := x / 10) (x0 := x % 10) (y1 := y / 10) (y0 := y % 10) c (by omega) (by omega) (by omega)
      (by omega) hv
  refine State.decimalAdjust_of_digits ht (by rw [hf]) (by rw [hf]) ?_ hhi hlo ?_ ?_
  · rw [hf, decide_eq_decide]; omega
  · have := bool_toNat_le cOut
    omega
  · cases cOut <;> simp at hdigits ⊢ <;> omega

end

end Sys2Proof.Machine
end

section
/-! The statements settled: 8-bit arithmetic and logic. -/

namespace Sys2Proof.Machine

/-- Settles O13: all ten forms are `accAdd` of their operand. -/
theorem addToAccumulator : Obligations.AddToAccumulator := by
  intro s
  refine ⟨?_, ?_⟩
  · exact (aluForms_operates fun r => by cases r <;> rfl).imp Operates.addsToA
  · exact (aluForms_operates fun r => by cases r <;> rfl).imp Operates.addsToA

/-- Settles O14: all ten forms are `accSub` of their operand. -/
theorem subtractFromAccumulator : Obligations.SubtractFromAccumulator := by
  intro s
  refine ⟨?_, ?_⟩
  · exact (aluForms_operates fun r => by cases r <;> rfl).imp Operates.subtractsFromA
  · exact (aluForms_operates fun r => by cases r <;> rfl).imp Operates.subtractsFromA

/-- Settles O15: the five forms are `accCompare` of their operand. -/
theorem compareWithAccumulator : Obligations.CompareWithAccumulator := fun _ =>
  (aluForms_operates fun r => by cases r <;> rfl).imp Operates.comparesWithA

/-- Settles O16: AND, XOR and OR of bytes are those of their bits. -/
theorem logicOnAccumulator : Obligations.LogicOnAccumulator := by
  intro s
  refine ⟨?_, ?_, ?_⟩
  · exact (aluForms_operates fun r => by cases r <;> rfl).imp fun h =>
      h.combinesWithA (fun u => u.accAnd_spec _) fun _ _ _ => BitVec.getLsbD_and
  · exact (aluForms_operates fun r => by cases r <;> rfl).imp fun h =>
      h.combinesWithA (fun u => u.accXor_spec _) fun _ _ _ => BitVec.getLsbD_xor
  · exact (aluForms_operates fun r => by cases r <;> rfl).imp fun h =>
      h.combinesWithA (fun u => u.accOr_spec _) fun _ _ _ => BitVec.getLsbD_or

/-- Settles O17: INC is `add8` of 1 and DEC `sub8` of 1, on a register or on one memory byte. -/
theorem incrementDecrementByte : Obligations.IncrementDecrementByte := by
  intro s
  refine ⟨fun r => ?_, ?_, fun d => ?_, fun d => ?_, fun r => ?_, ?_, fun d => ?_, fun d => ?_⟩
  · exact stepsRegister_of_spec (by cases r <;> rfl) rfl (s.incReg_spec r) fun _ => isIncrement_of_flags
  · exact stepsMemory_of_spec rfl rfl (s.incMem_spec s.hl) fun _ => isIncrement_of_flags
  · exact stepsMemory_of_spec rfl rfl (s.incMem_spec (s.eaIX d)) fun _ => isIncrement_of_flags
  · exact stepsMemory_of_spec rfl rfl (s.incMem_spec (s.eaIY d)) fun _ => isIncrement_of_flags
  · exact stepsRegister_of_spec (by cases r <;> rfl) rfl (s.decReg_spec r) fun _ => isDecrement_of_flags
  · exact stepsMemory_of_spec rfl rfl (s.decMem_spec s.hl) fun _ => isDecrement_of_flags
  · exact stepsMemory_of_spec rfl rfl (s.decMem_spec (s.eaIX d)) fun _ => isDecrement_of_flags
  · exact stepsMemory_of_spec rfl rfl (s.decMem_spec (s.eaIY d)) fun _ => isDecrement_of_flags

/-- Settles O18: S, Z and P/V follow A on both ways DAA goes; a row that fits is the only one, so it is the one taken. -/
theorem decimalAdjustTable : Obligations.DecimalAdjustTable := by
  intro s
  obtain ⟨hframe, hmem⟩ := s.decimalAdjust_frame
  obtain ⟨h, c, hflags⟩ := s.decimalAdjust_flags
  refine completes_of_advance 1 (fun _ => rfl) rfl rfl hframe (by decide) hmem ⟨?_, ?_, ?_, ?_, ?_⟩
  · rw [State.advance_flags, hflags]; exact byte_msb _
  · rw [State.advance_flags, hflags]; exact byte_beq_zero _
  · rw [State.advance_flags, hflags]; exact parityEven_iff _
  · rw [State.advance_flags, hflags]; rfl
  · intro row hrow hn hc hh hhi hhi' hlo hlo'
    exact State.decimalAdjust_of_takes ⟨hrow, hn, hc, hh, hhi, hhi', hlo, hlo', rfl, rfl⟩

/-- Settles O19: the table turns the binary sum or difference of two packed-BCD bytes into the decimal one. -/
theorem decimalArithmeticIsCorrect : Obligations.DecimalArithmeticIsCorrect := by
  intro s x y hx hy ha
  refine ⟨⟨_, _, rfl, rfl, ?_⟩, ⟨_, _, rfl, rfl, ?_⟩⟩
  · obtain ⟨-, -, hval, hflags⟩ := s.accAdd_spec (packedBcd y) s.flags.c
    rw [ha] at hval hflags
    rw [State.advance_a, State.advance_flags]
    exact State.decimalAdjust_of_add8 hx hy hval hflags
  · obtain ⟨-, -, hval, hflags⟩ := s.accSub_spec (packedBcd y) s.flags.c
    rw [ha] at hval hflags
    rw [State.advance_a, State.advance_flags]
    exact State.decimalAdjust_of_sub8 hx hy hval hflags

/-- Settles O20: each writes the flags, CPL before them A. -/
theorem complementAndCarryFlags : Obligations.ComplementAndCarryFlags := by
  intro s
  refine ⟨?_, completes_of_writeFlags rfl rfl, completes_of_writeFlags rfl rfl⟩
  refine (completes_of_setA_writeFlags rfl rfl).imp fun t ⟨ha, hflags⟩ => ⟨?_, hflags⟩
  rw [ha, BitVec.toNat_not]

/-- Settles O21: NEG is `sub8` of A from 0. -/
theorem negateAccumulator : Obligations.NegateAccumulator := by
  intro s
  refine (completes_of_setA_writeFlags rfl rfl).imp fun t ⟨ha, hflags⟩ => ⟨?_, ?_⟩
  · have hr := sub8_r 0#8 s.a false
    have hlt := s.a.isLt
    simp only [BitVec.toNat_ofNat, Bool.toNat_false] at hr
    rw [ha]
    omega
  · rw [hflags, ha, arithFlags_sub8, borrowFlags_zero]

end Sys2Proof.Machine
end

section
/-! Word registers that get a computed word, and the flags of word arithmetic (R230 to R237). -/

namespace Sys2Proof.Machine

/-- The flags of ADD on words in exact arithmetic: no carry comes in, and S, Z and P/V stay (R230, R231). -/
theorem State.addWordFlags_add16 (s : State) (a b : Word) : s.addWordFlags (add16 a b false) =
    { s.flags with
      h := decide (4095 < a.toNat % 4096 + b.toNat % 4096)
      n := false
      c := decide (65535 < a.toNat + b.toNat) } := rfl

/-- The flags of ADC on words in exact arithmetic (R232, D21). -/
theorem arithFlags16_add16 (a b : Word) (c : Bool) : arithFlags16 (add16 a b c) false =
    { s := decide (32768 ≤ (add16 a b c).r.toNat)
      z := decide ((add16 a b c).r.toNat = 0)
      h := decide (4095 < a.toNat % 4096 + b.toNat % 4096 + c.toNat)
      pv := decide (a.toInt + b.toInt + c.toNat < -32768 ∨ 32767 < a.toInt + b.toInt + c.toNat)
      n := false
      c := decide (65535 < a.toNat + b.toNat + c.toNat) } := by
  rw [arithFlags16, word_msb, word_beq_zero, add16_v]
  rfl

/-- The flags of SBC on words in exact arithmetic (R233, D21). -/
theorem arithFlags16_sub16 (a b : Word) (c : Bool) : arithFlags16 (sub16 a b c) true =
    { s := decide (32768 ≤ (sub16 a b c).r.toNat)
      z := decide ((sub16 a b c).r.toNat = 0)
      h := decide (a.toNat % 4096 < b.toNat % 4096 + c.toNat)
      pv := decide (a.toInt - b.toInt - c.toNat < -32768 ∨ 32767 < a.toInt - b.toInt - c.toNat)
      n := true
      c := decide (a.toNat < b.toNat + c.toNat) } := by
  rw [arithFlags16, word_msb, word_beq_zero, sub16_v]
  rfl

/-- One less modulo 65536 (R236, R237). -/
theorem word_sub_one_toNat (v : Word) : ((v - 1).toNat : Int) = ((v.toNat : Int) - 1) % 65536 := by
  have hv := v.isLt
  have one_toNat : (1 : Word).toNat = 1 := rfl
  rw [BitVec.toNat_sub, one_toNat]
  omega

section
variable {i : Instr} {bytes : List Byte} {s : State} {a b v : Word} {fl : Flags}
  {ch : List Loc} {reg : State → Word} {set : State → Word → State}

section
variable (hreg : ∀ (t : State) (fl : Flags) (n : Nat), reg ((t.writeFlags fl).advance n) = reg (t.advance n))
include hreg

/-- A register that F is no part of gets a word, and then the flags are written. -/
theorem completes_of_setWord_writeFlags (w : WritesWord ch reg set) (henc : i.wellFormed = true → encode i = bytes)
    (hx : exec i s = .next (((set s v).writeFlags fl).advance bytes.length)) :
    Completes i bytes s (ch ++ [.f, .draws]) [] fun t => reg t = v ∧ t.flags = fl := by
  have hframe := (w.frame s v).append ((set s v).writeFlags_unchanged fl)
  have hmem : MemUnchanged [] s ((set s v).writeFlags fl) := (w.memUnchanged v).trans fun _ _ => rfl
  exact completes_of_advance _ henc hx rfl hframe (by simpa using w.pc_notMem) hmem
    ⟨(hreg _ _ _).trans (w.value s v _), (set s v).flags_writeFlags fl⟩

/-- A register gets the sum of two words with the flags of ADD (R230, R231). -/
theorem completes_of_addWord (w : WritesWord ch reg set) (henc : i.wellFormed = true → encode i = bytes)
    (hx : exec i s = .next
      (((set s (add16 a b false).r).writeFlags (s.addWordFlags (add16 a b false))).advance bytes.length)) :
    Completes i bytes s (ch ++ [.f, .draws]) [] fun t => (reg t).toNat = (a.toNat + b.toNat) % 65536 ∧
      t.flags =
        { s.flags with
          h := decide (4095 < a.toNat % 4096 + b.toNat % 4096)
          n := false
          c := decide (65535 < a.toNat + b.toNat) } :=
  (completes_of_setWord_writeFlags hreg w henc hx).imp fun t ⟨hval, hflags⟩ =>
    ⟨by rw [hval, add16_r]; rfl, hflags.trans (s.addWordFlags_add16 a b)⟩

end

/-- A register is one more modulo 65536 (R234, R235). -/
theorem completes_of_incWord (w : WritesWord ch reg set) (henc : i.wellFormed = true → encode i = bytes)
    (hx : exec i s = .next ((set s (a + 1)).advance bytes.length)) :
    Completes i bytes s ch [] fun t => (reg t).toNat = (a.toNat + 1) % 65536 :=
  (completes_of_setWord w henc hx).imp fun t hval => by rw [hval, BitVec.toNat_add]; rfl

/-- A register is one less modulo 65536 (R236, R237). -/
theorem completes_of_decWord (w : WritesWord ch reg set) (henc : i.wellFormed = true → encode i = bytes)
    (hx : exec i s = .next ((set s (a - 1)).advance bytes.length)) :
    Completes i bytes s ch [] fun t => ((reg t).toNat : Int) = ((a.toNat : Int) - 1) % 65536 :=
  (completes_of_setWord w henc hx).imp fun t hval => by rw [hval, word_sub_one_toNat]

end

end Sys2Proof.Machine
end

section
/-! The statements settled: 16-bit arithmetic. -/

namespace Sys2Proof.Machine

/-- Settles O22: each writes its register with `add16` of it and its operand, no carry coming in. -/
theorem addWordRegisters : Obligations.AddWordRegisters := by
  intro s
  refine ⟨fun ss => ?_, fun xx => ?_, fun yy => ?_⟩
  · exact completes_of_addWord (fun _ _ _ => rfl) (writesWord_setRdd .hl) (fun _ => by cases ss <;> rfl) rfl
  · exact completes_of_addWord (fun _ _ _ => rfl) writesWord_setIX (fun _ => by cases xx <;> rfl) rfl
  · exact completes_of_addWord (fun _ _ _ => rfl) writesWord_setIY (fun _ => by cases yy <;> rfl) rfl

/-- Settles O23: HL gets `add16` or `sub16` of it, the operand and C; S and Z are read off the new HL. -/
theorem wordArithmeticWithCarry : Obligations.WordArithmeticWithCarry := by
  intro s
  refine ⟨fun ss => ?_, fun ss => ?_⟩
  · refine (completes_of_setWord_writeFlags (fun _ _ _ => rfl) (writesWord_setRdd .hl)
      (fun _ => by cases ss <;> rfl) rfl).imp fun t ⟨(hval : t.hl = _), hflags⟩ => ⟨?_, ?_⟩
    · rw [hval, add16_r]
    · rw [hflags, hval, arithFlags16_add16]
  · refine (completes_of_setWord_writeFlags (fun _ _ _ => rfl) (writesWord_setRdd .hl)
      (fun _ => by cases ss <;> rfl) rfl).imp fun t ⟨(hval : t.hl = _), hflags⟩ => ⟨?_, ?_⟩
    · rw [hval, sub16_r]
    · rw [hflags, hval, arithFlags16_sub16]

/-- Settles O24: each writes its register with the word one more or one less, and no flag. -/
theorem incrementDecrementWord : Obligations.IncrementDecrementWord := by
  intro s
  refine ⟨fun dd => ?_, ?_, ?_, fun dd => ?_, ?_, ?_⟩
  · exact completes_of_incWord (writesWord_setRdd dd) (fun _ => by cases dd <;> rfl) rfl
  · exact completes_of_incWord writesWord_setIX (fun _ => rfl) rfl
  · exact completes_of_incWord writesWord_setIY (fun _ => rfl) rfl
  · exact completes_of_decWord (writesWord_setRdd dd) (fun _ => by cases dd <;> rfl) rfl
  · exact completes_of_decWord writesWord_setIX (fun _ => rfl) rfl
  · exact completes_of_decWord writesWord_setIY (fun _ => rfl) rfl

end Sys2Proof.Machine
end

section
/-! Rotates and shifts as numbers: each moves a byte by one place and takes a bit in at the end left free (R251 to R261). -/

namespace Sys2Proof.Machine

theorem getLsbD_seven (v : Byte) : v.getLsbD 7 = decide (128 ≤ v.toNat) := byte_msb v

theorem getLsbD_zero (v : Byte) : v.getLsbD 0 = decide (v.toNat % 2 = 1) := by
  rw [BitVec.getLsbD, Nat.testBit_zero]

theorem getLsbD_seven_toNat (v : Byte) : (v.getLsbD 7).toNat = v.toNat / 128 := by
  have hv := v.isLt
  rw [BitVec.getLsbD, Nat.toNat_testBit]
  omega

theorem getLsbD_zero_toNat (v : Byte) : (v.getLsbD 0).toNat = v.toNat % 2 := by
  rw [BitVec.getLsbD, Nat.toNat_testBit, pow_zero, Nat.div_one]

/-- One place to the left, with `b` taken in as bit 0. -/
theorem concat_low_toNat (v : Byte) (b : Bool) : ((v.extractLsb' 0 7).concat b).toNat = (2 * v.toNat + b.toNat) % 256 := by
  have hb := bool_toNat_le b
  rw [BitVec.toNat_concat, BitVec.extractLsb'_toNat, Nat.shiftRight_zero]
  omega

/-- One place to the right, with `b` taken in as bit 7. -/
theorem cons_high_toNat (v : Byte) (b : Bool) : ((v.extractLsb' 1 7).cons b).toNat = v.toNat / 2 + 128 * b.toNat := by
  have hv := v.isLt
  have hlow : (v.extractLsb' 1 7).toNat = v.toNat / 2 := by
    rw [BitVec.extractLsb'_toNat, Nat.shiftRight_eq_div_pow]
    omega
  have hlt : v.toNat / 2 < 2 ^ 7 := by omega
  rw [BitVec.toNat_cons, hlow, Nat.shiftLeft_eq, Nat.mul_comm, ← Nat.two_pow_add_eq_or_of_lt hlt, Nat.add_comm]

/-- With `cin` as the carry coming in, `op` gives of every byte the number `res` and the bit `out`. -/
structure ShiftsAs (op : Byte → Bool → Shifted) (cin : Bool) (res : Nat → Nat) (out : Nat → Bool) : Prop where
  result : ∀ v, (op v cin).r.toNat = res v.toNat
  carry : ∀ v, (op v cin).c = out v.toNat

section
variable (cin : Bool)

theorem rlc_shiftsAs : ShiftsAs rlc cin (fun v => (2 * v + v / 128) % 256) fun v => decide (128 ≤ v) :=
  ⟨fun v => by rw [rlc, concat_low_toNat, getLsbD_seven_toNat], getLsbD_seven⟩

theorem rl_shiftsAs : ShiftsAs rl cin (fun v => (2 * v + cin.toNat) % 256) fun v => decide (128 ≤ v) :=
  ⟨fun v => concat_low_toNat v cin, getLsbD_seven⟩

theorem rrc_shiftsAs : ShiftsAs rrc cin (fun v => v / 2 + 128 * (v % 2)) fun v => decide (v % 2 = 1) :=
  ⟨fun v => by rw [rrc, cons_high_toNat, getLsbD_zero_toNat], getLsbD_zero⟩

theorem rr_shiftsAs : ShiftsAs rr cin (fun v => v / 2 + 128 * cin.toNat) fun v => decide (v % 2 = 1) :=
  ⟨fun v => cons_high_toNat v cin, getLsbD_zero⟩

theorem sla_shiftsAs : ShiftsAs sla cin (fun v => 2 * v % 256) fun v => decide (128 ≤ v) :=
  ⟨fun v => concat_low_toNat v false, getLsbD_seven⟩

theorem sra_shiftsAs : ShiftsAs sra cin (fun v => v / 2 + 128 * (v / 128)) fun v => decide (v % 2 = 1) :=
  ⟨fun v => by rw [sra, cons_high_toNat, getLsbD_seven_toNat], getLsbD_zero⟩

theorem srl_shiftsAs : ShiftsAs srl cin (fun v => v / 2) fun v => decide (v % 2 = 1) :=
  ⟨fun v => cons_high_toNat v false, getLsbD_zero⟩

end

/-- The flags of the rotates and shifts by number and by counting ones (R255 to R261). -/
theorem shiftFlags_eq (o : Shifted) : shiftFlags o = shiftedFlags o.r o.c := by
  rw [shiftFlags, byte_msb, byte_beq_zero, parityEven_iff]
  rfl

section
variable {i : Instr} {bytes : List Byte} {s : State} {op : Byte → Bool → Shifted} {res : Nat → Nat} {out : Nat → Bool}
  (h : ShiftsAs op s.flags.c res out)
include h

/-- A rotate of A (R251 to R254). -/
theorem ShiftsAs.completes_rotateAcc (henc : encode i = bytes)
    (hx : exec i s = .next ((s.rotateAcc op).advance bytes.length)) :
    Completes i bytes s [.a, .f, .draws] [] fun t => t.a.toNat = res s.a.toNat ∧
      t.flags = { s.flags with h := false, n := false, c := out s.a.toNat } := by
  obtain ⟨hframe, hmem, hval, hflags⟩ := s.rotateAcc_spec op
  refine completes_of_advance _ (fun _ => henc) hx rfl hframe (by decide) hmem ⟨?_, ?_⟩
  · rw [State.advance_a, hval, h.result]
  · rw [State.advance_flags, hflags, h.carry]

/-- The register form of a rotate or shift. -/
theorem ShiftsAs.completes_shiftReg {r : Reg8} (henc : encode i = bytes)
    (hx : exec i s = .next ((s.shiftReg op r).advance bytes.length)) :
    Completes i bytes s [.ofReg8 r, .f, .draws] [] fun t =>
      (t.r8 r).toNat = res (s.r8 r).toNat ∧ t.flags = shiftedFlags (t.r8 r) (out (s.r8 r).toNat) := by
  obtain ⟨hframe, hmem, hval, hflags⟩ := s.shiftReg_spec op r
  refine completes_of_advance _ (fun _ => henc) hx rfl hframe (by cases r <;> decide) hmem ⟨?_, ?_⟩
  · rw [State.r8_advance, hval, h.result]
  · rw [State.advance_flags, State.r8_advance, hflags, hval, shiftFlags_eq, h.carry]

/-- The memory forms of a rotate or shift. -/
theorem ShiftsAs.shiftsMemory {a : Word} (henc : encode i = bytes)
    (hx : exec i s = .next ((s.shiftMem op a).advance bytes.length)) : ShiftsMemory i bytes s a res out := by
  obtain ⟨hframe, hmem, htrans, hflags⟩ := s.shiftMem_spec op a
  refine completes_of_advance _ (fun _ => henc) hx rfl hframe (by decide) hmem
    ⟨_, h.result (s.readByte a), htrans.congr rfl rfl rfl rfl, ?_⟩
  rw [State.advance_flags, hflags, shiftFlags_eq, h.carry]

/-- The four operand forms of one rotate or shift: the encodings of R250, and `exec` of each the operation on the operand. -/
theorem ShiftsAs.shiftForms {onR : Reg8 → Instr} {onHl : Instr} {onIx onIy : Byte → Instr} {code : Byte}
    (encR : ∀ r, encode (onR r) = [0xCB#8, code + r.code])
    (encHl : encode onHl = [0xCB#8, code + 6#8] := by rfl)
    (encIx : ∀ d, encode (onIx d) = [0xDD#8, 0xCB#8, d, code + 6#8] := by intro; rfl)
    (encIy : ∀ d, encode (onIy d) = [0xFD#8, 0xCB#8, d, code + 6#8] := by intro; rfl)
    (execR : ∀ r, exec (onR r) s = .next ((s.shiftReg op r).advance 2) := by intro; rfl)
    (execHl : exec onHl s = .next ((s.shiftMem op s.hl).advance 2) := by rfl)
    (execIx : ∀ d, exec (onIx d) s = .next ((s.shiftMem op (s.eaIX d)).advance 4) := by intro; rfl)
    (execIy : ∀ d, exec (onIy d) s = .next ((s.shiftMem op (s.eaIY d)).advance 4) := by intro; rfl) :
    ShiftForms s onR onHl onIx onIy code res out :=
  ⟨fun r => h.completes_shiftReg (encR r) (execR r), h.shiftsMemory encHl execHl,
    fun d => h.shiftsMemory (encIx d) (execIx d), fun d => h.shiftsMemory (encIy d) (execIy d)⟩

end

end Sys2Proof.Machine
end

section
/-! The digits of a byte, and the digit rotates (R262, R263). -/

namespace Sys2Proof.Machine

theorem nibbles_toNat (hi lo : BitVec 4) : (nibbles hi lo).toNat = 16 * hi.toNat + lo.toNat := by
  have happ : (hi ++ lo).toNat = hi.toNat <<< 4 ||| lo.toNat := BitVec.toNat_append hi lo
  rw [nibbles, happ, Nat.shiftLeft_eq, Nat.mul_comm, ← Nat.two_pow_add_eq_or_of_lt lo.isLt]

theorem hiNibble_toNat (v : Byte) : (hiNibble v).toNat = v.toNat / 16 := by
  have hv := v.isLt
  rw [hiNibble, BitVec.extractLsb'_toNat, Nat.shiftRight_eq_div_pow]
  omega

theorem loNibble_toNat (v : Byte) : (loNibble v).toNat = v.toNat % 16 := by
  rw [loNibble, BitVec.extractLsb'_toNat, Nat.shiftRight_zero]

/-- The flags of the digit rotates by number and by counting ones (R262, R263). -/
theorem State.digitFlags_eq (s : State) (v : Byte) : s.digitFlags v =
    ⟨decide (128 ≤ v.toNat), decide (v.toNat = 0), false, evenOnes v, false, s.flags.c⟩ := by
  rw [State.digitFlags, byte_msb, byte_beq_zero, parityEven_iff]
  rfl

/-- The byte at HL is read, A gets `r` with its flags, and `w` is written back to HL. -/
theorem completes_of_rotateDigit {i : Instr} {bytes : List Byte} {s t : State} {r w : Byte} (henc : encode i = bytes)
    (hx : exec i s = .next (t.advance bytes.length))
    (hspec : Unchanged [.a, .f, .memIn, .draws, .trace] s t ∧ MemUnchanged [s.hl] s t ∧ t.a = r ∧
      Transacts (s.byteRead s.hl ++ [.memWrite s.hl w]) s t ∧ t.flags = s.digitFlags t.a) :
    Completes i bytes s [.a, .f, .memIn, .draws, .trace] [s.hl] fun t => t.a = r ∧
      t.flags = ⟨decide (128 ≤ t.a.toNat), decide (t.a.toNat = 0), false, evenOnes t.a, false, s.flags.c⟩ ∧
      Transacts (s.byteRead s.hl ++ [.memWrite s.hl w]) s t := by
  obtain ⟨hframe, hmem, hval, htrans, hflags⟩ := hspec
  exact completes_of_advance _ (fun _ => henc) hx rfl hframe (by decide) hmem
    ⟨hval, hflags.trans (s.digitFlags_eq t.a), htrans.congr rfl rfl rfl rfl⟩

end Sys2Proof.Machine
end

section
/-! The bit operations: the bit number inside the operation byte, and BIT, SET and RES on an operand (R95, R264 to R266). -/

namespace Sys2Proof.Machine

/-- The bit number lies in bits 5..3 of the operation byte; where they are free it can be added instead. -/
theorem or_bitNumber {pat : Byte} {b : Nat} (hb : bitNumberOk b = true) (hpat : pat &&& 0b00111000#8 = 0#8) :
    pat ||| (BitVec.ofNat 8 b <<< 3) = pat + 8#8 * BitVec.ofNat 8 b := by
  have hlt : b < 8 := of_decide_eq_true hb
  clear hb
  revert pat
  interval_cases b <;> decide +kernel

/-- So can the code of a register, in bits 2..0. -/
theorem or_bitNumber_or_code {pat : Byte} {b : Nat} (r : Reg8) (hb : bitNumberOk b = true)
    (hpat : pat &&& 0b00111111#8 = 0#8) :
    pat ||| (BitVec.ofNat 8 b <<< 3) ||| r.code = pat + 8#8 * BitVec.ofNat 8 b + r.code := by
  obtain ⟨hsum, hfree⟩ : pat ||| r.code = pat + r.code ∧ (pat ||| r.code) &&& 0b00111000#8 = 0#8 := by
    revert pat
    cases r <;> decide +kernel
  rw [BitVec.or_assoc, BitVec.or_comm _ r.code, ← BitVec.or_assoc, or_bitNumber hb hfree, hsum, add_right_comm]

/-- The byte that SET and RES are made from has the one bit. -/
theorem getLsbD_one_shiftLeft {b k : Nat} (hk : k < 8) : (1#8 <<< b).getLsbD k = decide (k = b) := by
  rw [BitVec.getLsbD_shiftLeft, BitVec.getLsbD_one, Bool.eq_iff_iff]
  simp only [Bool.and_eq_true, Bool.not_eq_true', decide_eq_true_eq, decide_eq_false_iff_not]
  omega

theorem withBit_bitBecomes (b : Nat) (v : Byte) : BitBecomes b true v (withBit v b) := by
  intro k hk
  rw [withBit, BitVec.getLsbD_or, getLsbD_one_shiftLeft hk]
  by_cases h : k = b <;> simp [h]

theorem withoutBit_bitBecomes (b : Nat) (v : Byte) : BitBecomes b false v (withoutBit v b) := by
  intro k hk
  rw [withoutBit, BitVec.getLsbD_and, BitVec.getLsbD_not, getLsbD_one_shiftLeft hk, decide_eq_true hk, Bool.true_and]
  by_cases h : k = b <;> simp [h]

section
variable {i : Instr} {bytes : List Byte} {s : State}

/-- BIT on an operand that is read before F is written. -/
theorem completes_of_bitTest {reads : List BusEvent} {u : State} {v : Byte} {b : Nat} (hread : ReadsOperand reads s u)
    (henc : i.wellFormed = true → encode i = bytes) (hx : exec i s = .next ((u.bitTest v b).advance bytes.length)) :
    Completes i bytes s [.f, .memIn, .draws, .trace] [] fun t =>
      t.flags = { s.flags with z := !v.getLsbD b, h := true, n := false } ∧ Transacts reads s t := by
  obtain ⟨hreadFrame, hreadMem, htrans⟩ := hread
  obtain ⟨htest, htestMem, hflags⟩ := u.bitTest_spec v b
  have hframe := (hreadFrame.append htest).mono (ch' := [.f, .memIn, .draws, .trace]) (by simp)
  have hold : u.flags = s.flags := State.flags_of_f (hreadFrame .f (by decide))
  refine completes_of_advance _ henc hx rfl hframe (by decide) (hreadMem.trans htestMem) ⟨?_, ?_⟩
  · rw [State.advance_flags, hflags, hold]
  · exact (htrans.of_unchanged htest htestMem (by decide)).congr rfl rfl rfl rfl

theorem writesBit_of_changeMem {a : Word} {b : Nat} {v : Bool} {f : Byte → Byte} (hf : ∀ x, BitBecomes b v x (f x))
    (henc : i.wellFormed = true → encode i = bytes) (hx : exec i s = .next ((s.changeMem f a).advance bytes.length)) :
    WritesBit i bytes s a b v := by
  obtain ⟨hframe, hmem, htrans⟩ := s.changeMem_spec f a
  exact completes_of_advance _ henc hx rfl hframe (by decide) hmem ⟨_, hf _, htrans.congr rfl rfl rfl rfl⟩

end

/-- The four operand forms of SET or RES: the encodings of R250, and `exec` of each `f` on the operand. -/
theorem bitForms_of_bitBecomes {s : State} {onR : Nat → Reg8 → Instr} {onHl : Nat → Instr}
    {onIx onIy : Nat → Byte → Instr} {op : Byte} {v : Bool} {f : Byte → Nat → Byte}
    (hf : ∀ b x, BitBecomes b v x (f x b))
    (encR : ∀ b r, (onR b r).wellFormed = true →
      encode (onR b r) = [0xCB#8, op + 8#8 * BitVec.ofNat 8 b + r.code] := by
      intro b r h; rw [encode, or_bitNumber_or_code r h rfl])
    (encHl : ∀ b, (onHl b).wellFormed = true →
      encode (onHl b) = [0xCB#8, op + 8#8 * BitVec.ofNat 8 b + 6#8] := by
      intro b h; rw [encode, or_bitNumber h rfl, add_right_comm]; rfl)
    (encIx : ∀ b d, (onIx b d).wellFormed = true →
      encode (onIx b d) = [0xDD#8, 0xCB#8, d, op + 8#8 * BitVec.ofNat 8 b + 6#8] := by
      intro b d h; rw [encode, or_bitNumber h rfl, add_right_comm]; rfl)
    (encIy : ∀ b d, (onIy b d).wellFormed = true →
      encode (onIy b d) = [0xFD#8, 0xCB#8, d, op + 8#8 * BitVec.ofNat 8 b + 6#8] := by
      intro b d h; rw [encode, or_bitNumber h rfl, add_right_comm]; rfl)
    (execR : ∀ b r, exec (onR b r) s = .next ((s.setR8 r (f (s.r8 r) b)).advance 2) := by intros; rfl)
    (execHl : ∀ b, exec (onHl b) s = .next ((s.changeMem (f · b) s.hl).advance 2) := by intros; rfl)
    (execIx : ∀ b d, exec (onIx b d) s = .next ((s.changeMem (f · b) (s.eaIX d)).advance 4) := by intros; rfl)
    (execIy : ∀ b d, exec (onIy b d) s = .next ((s.changeMem (f · b) (s.eaIY d)).advance 4) := by intros; rfl) :
    BitForms s onR onHl onIx onIy op v :=
  ⟨fun b r => (completes_of_setR8 (encR b r) (execR b r)).imp fun t hval => by rw [hval]; exact hf b _,
    fun b => writesBit_of_changeMem (hf b) (encHl b) (execHl b),
    fun b d => writesBit_of_changeMem (hf b) (encIx b d) (execIx b d),
    fun b d => writesBit_of_changeMem (hf b) (encIy b d) (execIy b d)⟩

end Sys2Proof.Machine
end

section
/-! The statements settled: rotates, shifts and bits. -/

namespace Sys2Proof.Machine

/-- Settles O26: each operation is one shift of numbers, and its forms do it to a register or to one memory byte. -/
theorem rotateShiftForms : Obligations.RotateShiftForms := by
  intro s
  refine ⟨?_, ?_, ?_, ?_, ?_, ?_, ?_⟩
  · exact (rlc_shiftsAs _).shiftForms fun r => by cases r <;> rfl
  · exact (rl_shiftsAs _).shiftForms fun r => by cases r <;> rfl
  · exact (rrc_shiftsAs _).shiftForms fun r => by cases r <;> rfl
  · exact (rr_shiftsAs _).shiftForms fun r => by cases r <;> rfl
  · exact (sla_shiftsAs _).shiftForms fun r => by cases r <;> rfl
  · exact (sra_shiftsAs _).shiftForms fun r => by cases r <;> rfl
  · exact (srl_shiftsAs _).shiftForms fun r => by cases r <;> rfl

/-- Settles O25: the four rotates of A are those of the CB page with other flags. -/
theorem rotateAccumulator : Obligations.RotateAccumulator := by
  intro s
  refine ⟨?_, ?_, ?_, ?_⟩
  · exact (rlc_shiftsAs _).completes_rotateAcc rfl rfl
  · exact (rl_shiftsAs _).completes_rotateAcc rfl rfl
  · exact (rrc_shiftsAs _).completes_rotateAcc rfl rfl
  · exact (rr_shiftsAs _).completes_rotateAcc rfl rfl

/-- Settles O27: both bytes written are made of two digits of A and of the byte read. -/
theorem digitRotates : Obligations.DigitRotates := by
  intro s
  refine ⟨?_, ?_⟩
  · refine (completes_of_rotateDigit rfl rfl s.rotateDigitLeft_spec).imp fun t ⟨hval, hflags, htrans⟩ =>
      ⟨?_, hflags, _, ?_, htrans⟩
    · rw [hval, nibbles_toNat, hiNibble_toNat, hiNibble_toNat]
    · rw [nibbles_toNat, loNibble_toNat, loNibble_toNat]
  · refine (completes_of_rotateDigit rfl rfl s.rotateDigitRight_spec).imp fun t ⟨hval, hflags, htrans⟩ =>
      ⟨?_, hflags, _, ?_, htrans⟩
    · rw [hval, nibbles_toNat, hiNibble_toNat, loNibble_toNat]
    · rw [nibbles_toNat, loNibble_toNat, hiNibble_toNat]

/-- Settles O28: the operand is read where it is in memory, and `bitTest` writes F. -/
theorem bitTestFlags : Obligations.BitTestFlags := by
  intro s
  refine ⟨fun b r => ?_, fun b => ?_, fun b d => ?_, fun b d => ?_⟩
  · exact completes_of_bitTest (readsOperand_nil s) (fun h => by rw [encode, or_bitNumber_or_code r h rfl]) rfl
  · exact completes_of_bitTest (readsOperand_readDone s _) (fun h => by rw [encode, or_bitNumber h rfl]) rfl
  · exact completes_of_bitTest (readsOperand_readDone s _) (fun h => by rw [encode, or_bitNumber h rfl]) rfl
  · exact completes_of_bitTest (readsOperand_readDone s _) (fun h => by rw [encode, or_bitNumber h rfl]) rfl

/-- Settles O29: SET and RES write the byte with its bit set or reset back to where it was. -/
theorem bitSetReset : Obligations.BitSetReset := by
  intro s
  refine ⟨?_, ?_⟩
  · exact bitForms_of_bitBecomes withBit_bitBecomes
  · exact bitForms_of_bitBecomes withoutBit_bitBecomes

end Sys2Proof.Machine
end

section
/-! One iteration of a block instruction, and the form that repeats it (R290 to R298, R344 to R351). -/

namespace Sys2Proof.Machine

/-- The test of a count, as a proposition (R291, R295). -/
theorem word_bne_zero (v : Word) : (v != 0#16) = decide (v ≠ 0#16) := (decide_not (p := v = 0#16)).symm

/-- S, Z and H of a compare, by the exact difference (R193, R198). -/
theorem arithFlags_compare (a v : Byte) (pv c : Bool) :
    { arithFlags (sub8 a v false) true with pv := pv, c := c } =
      { s := decide (128 ≤ ((a.toNat : Int) - v.toNat) % 256), z := decide (a = v),
        h := decide (a.toNat % 16 < v.toNat % 16), pv := pv, n := true, c := c : Flags } := by
  have hr := sub8_r a v false
  rw [arithFlags_sub8, borrowFlags]
  simp only [Flags.mk.injEq, decide_eq_decide, true_and, and_true, sub8_r_toNat_eq_zero_iff, Bool.toNat_false] at hr ⊢
  omega

section
variable {i sibling : Instr} {bytes : List Byte} {s u : State} {delta : Word}

theorem transfersBlock_of_blockLoad (henc : encode i = bytes)
    (hx : exec i s = .next ((s.blockLoad delta).advance bytes.length)) : TransfersBlock i bytes s delta := by
  obtain ⟨hframe, hmem, htrans, hbc, hde, hhl, hflags⟩ := s.blockLoad_spec delta
  refine completes_of_advance _ (fun _ => henc) hx rfl hframe (by decide) hmem
    ⟨htrans.congr rfl rfl rfl rfl, hbc, hde, hhl, ?_⟩
  rw [State.advance_flags, State.advance_bc, hflags, hbc, word_bne_zero]

theorem comparesBlock_of_blockCompare (henc : encode i = bytes)
    (hx : exec i s = .next ((s.blockCompare delta).advance bytes.length)) : ComparesBlock i bytes s delta := by
  obtain ⟨hframe, hmem, htrans, hbc, hhl, hflags⟩ := s.blockCompare_spec delta
  refine completes_of_advance _ (fun _ => henc) hx rfl hframe (by decide) hmem
    ⟨htrans.congr rfl rfl rfl rfl, hbc, hhl, ?_⟩
  rw [State.advance_flags, State.advance_bc, hflags, hbc, arithFlags_compare, word_bne_zero]

/-- After an iteration that leaves PC, the repeating form stays where it is while its sibling goes on; what the test looks at
does not depend on PC (R290, D28). -/
theorem repeatsAs_of_iteration {again : State → Bool} {ch : List Loc} (henc : encode i = bytes) (hframe : Unchanged ch s u)
    (hpc : Loc.pc ∉ ch) (hsib : exec sibling s = .next (u.advance 2)) (hx : exec i s = repeatWhile (again u) u)
    (hagain : again (u.advance 2) = again u) : RepeatsAs i sibling bytes s again := by
  have hstay : u.setRepeating true = { u.advance 2 with pc := s.pc, repeating := true } := by
    rw [← show u.pc = s.pc from hframe .pc hpc]
    rfl
  exact ⟨henc, _, hsib, by rw [hx, hagain, ← hstay]; rfl⟩

end

end Sys2Proof.Machine
end

section
/-! The statements settled: block transfer, block search and the repeats. -/

namespace Sys2Proof.Machine

/-- Settles O30: LDI and LDD are one `blockLoad`, forwards and backwards. -/
theorem blockTransferIteration : Obligations.BlockTransferIteration := fun _ =>
  ⟨transfersBlock_of_blockLoad rfl rfl, transfersBlock_of_blockLoad rfl rfl⟩

/-- Settles O31: CPI and CPD are one `blockCompare`, forwards and backwards. -/
theorem blockCompareIteration : Obligations.BlockCompareIteration := fun _ =>
  ⟨comparesBlock_of_blockCompare rfl rfl, comparesBlock_of_blockCompare rfl rfl⟩

/-- Settles O32: each repeating form runs the iteration of its sibling, and no iteration writes PC. -/
theorem blockRepeatIteration : Obligations.BlockRepeatIteration := by
  intro s
  refine ⟨?_, ?_, ?_, ?_, ?_, ?_, ?_, ?_⟩
  · exact repeatsAs_of_iteration rfl (s.blockLoad_spec 1).1 (by decide) rfl rfl rfl
  · exact repeatsAs_of_iteration rfl (s.blockLoad_spec (-1)).1 (by decide) rfl rfl rfl
  · exact repeatsAs_of_iteration rfl (s.blockCompare_spec 1).1 (by decide) rfl rfl rfl
  · exact repeatsAs_of_iteration rfl (s.blockCompare_spec (-1)).1 (by decide) rfl rfl rfl
  · exact repeatsAs_of_iteration rfl (s.blockIn_spec 1).1 (by decide) rfl rfl rfl
  · exact repeatsAs_of_iteration rfl (s.blockIn_spec (-1)).1 (by decide) rfl rfl rfl
  · exact repeatsAs_of_iteration rfl (s.blockOut_spec 1).1 (by decide) rfl rfl rfl
  · exact repeatsAs_of_iteration rfl (s.blockOut_spec (-1)).1 (by decide) rfl rfl rfl

end Sys2Proof.Machine
end

section
/-! Jumps, calls and returns: what `exec` does where PC gets a target, a word is pushed before that, or PC is popped (R310 to
R323, R415). -/

namespace Sys2Proof.Machine

theorem State.setPC_unchanged (s : State) (v : Word) : Unchanged [.pc] s (s.setPC v) :=
  fun x hx => by cases x <;> simp_all [Loc.Same]

theorem State.emit_unchanged (s : State) (ev : BusEvent) : Unchanged [.trace] s (s.emit ev) :=
  fun x hx => by cases x <;> simp_all [Loc.Same]

/-- The condition the model tests is the bit of F its name stands for (R24, R100). -/
theorem State.condHolds_flags (s : State) (cc : Cond) : condHolds s.flags cc = s.meets (condBit cc) := by
  cases cc <;> simp [condHolds, condBit, State.meets, State.flags, unpackFlags]

/-- So is the condition of JR (R24, R101). -/
theorem State.ccHolds_flags (s : State) (cc : CC) : ccHolds s.flags cc = s.meets (ccBit cc) := by
  cases cc <;> simp [ccHolds, ccBit, State.meets, State.flags, unpackFlags]

/-! The conditional forms, by the bit of F. -/

theorem exec_jpCcMn (cc : Cond) (mn : Word) (s : State) :
    exec (.jpCcMn cc mn) s = .next (if s.meets (condBit cc) then s.setPC mn else s.advance 3) := by
  rw [← s.condHolds_flags]
  rfl

theorem exec_jrCc (cc : CC) (e : Int) (s : State) :
    exec (.jrCc cc e) s = .next (if s.meets (ccBit cc) then s.setPC (s.relative e) else s.advance 2) := by
  rw [← s.ccHolds_flags]
  rfl

/-- DJNZ tests B after the decrement (R316). -/
theorem exec_djnz (e : Int) (s : State) : exec (.djnz e) s =
    .next (if s.b - 1 ≠ 0#8 then (s.setB (s.b - 1)).setPC (s.relative e) else (s.setB (s.b - 1)).advance 2) := by
  simp only [← bne_iff_ne]
  rfl

theorem exec_callCcMn (cc : Cond) (mn : Word) (s : State) : exec (.callCcMn cc mn) s =
    .next (if s.meets (condBit cc) then (s.push16 (s.pc + 3)).setPC mn else s.advance 3) := by
  rw [← s.condHolds_flags]
  rfl

theorem exec_retCc (cc : Cond) (s : State) :
    exec (.retCc cc) s = .next (if s.meets (condBit cc) then s.returnFromStack else s.advance 1) := by
  rw [← s.condHolds_flags]
  rfl

/-- The restart address lies in bits 5..3 of the operation byte; where they are free it can be added instead (R323). -/
theorem or_restartAddress {v : Byte} (hv : restartOk v = true) : 0xC7#8 ||| v = 0xC7#8 + v := by
  have hmem := List.contains_iff_mem.mp hv
  fin_cases hmem <;> rfl

theorem word16_zero (v : Byte) : word16 0#8 v = v.setWidth 16 := by
  apply BitVec.eq_of_toNat_eq
  rw [word16_toNat, BitVec.toNat_setWidth_of_le (by decide), BitVec.toNat_zero, Nat.mul_zero, Nat.zero_add]

section
variable {i : Instr} {bytes : List Byte} {s u : State} {ch : List Loc} {stored : List Word} {post : State → Prop}

/-- PC gets a target after an operation. -/
theorem runs_of_setPC {target : Word} (henc : i.wellFormed = true → encode i = bytes)
    (hx : exec i s = .next (u.setPC target)) (hframe : Unchanged ch s u) (hmem : MemUnchanged stored s u)
    (hpost : post (u.setPC target)) : Runs i bytes s ch stored post :=
  ⟨henc, _, hx, (hframe.append (u.setPC_unchanged target)).mono (by simp), hmem, hpost⟩

/-- An unconditional jump. -/
theorem runs_of_jump {target : Word} (henc : i.wellFormed = true → encode i = bytes)
    (hx : exec i s = .next (s.setPC target)) (hpost : post (s.setPC target)) : Runs i bytes s [] [] post :=
  runs_of_setPC henc hx (Unchanged.refl _ s) (MemUnchanged.refl _ s) hpost

/-- After an operation, a jump on a condition, past the instruction where it fails. -/
theorem runs_of_branch {taken : Prop} [Decidable taken] {target : Word} {n : Nat}
    (henc : i.wellFormed = true → encode i = bytes)
    (hx : exec i s = .next (if taken then u.setPC target else u.advance n)) (hframe : Unchanged ch s u)
    (hmem : MemUnchanged stored s u) (hjump : taken → post (u.setPC target)) (hpass : ¬ taken → post (u.advance n)) :
    Runs i bytes s ch stored post := by
  by_cases h : taken
  · rw [if_pos h] at hx
    exact runs_of_setPC henc hx hframe hmem (hjump h)
  · rw [if_neg h] at hx
    exact runs_of_setPC henc hx hframe hmem (hpass h)

/-- A conditional call or return whose condition fails. -/
theorem completes_of_pass (henc : i.wellFormed = true → encode i = bytes)
    (hx : exec i s = .next (s.advance bytes.length)) : Completes i bytes s [] [] fun _ => True :=
  completes_of_advance _ henc hx rfl (Unchanged.refl _ s) (by simp) (MemUnchanged.refl _ s) trivial

/-- A word is pushed, high byte first, before PC gets the target (R65). -/
theorem runs_of_call {v target : Word} (henc : i.wellFormed = true → encode i = bytes)
    (hx : exec i s = .next ((s.push16 v).setPC target)) :
    Runs i bytes s [.sp, .trace] [s.sp - 1, s.sp - 2] fun t => PushedWord v [] s t ∧ t.pc = target := by
  obtain ⟨hframe, hmem, hsp, hi, lo, hword, htrans⟩ := s.push16_spec v
  exact runs_of_setPC henc hx hframe hmem ⟨⟨hsp, hi, lo, hword, htrans.congr rfl rfl rfl rfl⟩, rfl⟩

/-- PC is popped, low byte first (R65). -/
theorem runs_of_return (henc : i.wellFormed = true → encode i = bytes) (hx : exec i s = .next s.returnFromStack) :
    Runs i bytes s [.sp, .memIn, .draws, .trace] [] fun t =>
      t.pc.toNat = s.wordAt s.sp ∧ t.sp = s.sp + 2 ∧ Transacts (s.wordRead s.sp) s t := by
  obtain ⟨hframe, hmem, htrans, hpc, hsp⟩ := s.returnFromStack_spec
  exact ⟨henc, _, hx, hframe, hmem, hpc, hsp, htrans⟩

end

/-! RETN, and a return to where a word was pushed. -/

/-- What RETN does to the enables: IFF2 keeps its value (R28, C10). -/
theorem State.setIff_iff2_unchanged (s : State) : Unchanged [.iff1] s (s.setIff s.iff2 s.iff2) :=
  ((s.setIff_unchanged s.iff2 s.iff2).mono (ch' := [.iff2, .iff1]) (by simp)).of_same rfl

/-- RETN is a return that gives IFF1 the value of IFF2, which no read of the stack changes (R322). -/
theorem exec_retn (s : State) :
    exec .retn s = .next (s.returnFromStack.setIff s.returnFromStack.iff2 s.returnFromStack.iff2) := by
  rw [State.returnFromStack_iff2]
  rfl

/-- Where SP was lowered by 2 and is then raised by 2, it is no part of what has changed. -/
theorem Unchanged.of_push_pop {ch ch' : List Loc} {s t u : State} (hpush : Unchanged (.sp :: ch) s t)
    (hpop : Unchanged (.pc :: .sp :: ch') t u) (hdown : t.sp = s.sp - 2) (hup : u.sp = t.sp + 2) :
    Unchanged (ch ++ .pc :: ch') s u := by
  have hboth := (hpush.append hpop).mono (ch' := .sp :: (ch ++ .pc :: ch')) (by grind)
  have hsame : u.sp = s.sp := by rw [hup, hdown, BitVec.sub_add_cancel]
  exact hboth.of_same hsame

/-- A call and then RET: PC is the word that was pushed, where RAM stands, and of registers only PC has changed. -/
theorem exists_ret_of_call {i : Instr} {s : State} {v target : Word} (hx : exec i s = .next ((s.push16 v).setPC target)) :
    ∃ t u, exec i s = .next t ∧ exec .ret t = .next u ∧ Unchanged [.pc, .memIn, .draws, .trace] s u ∧
      MemUnchanged [s.sp - 1, s.sp - 2] s u ∧ (s.keeps (s.sp - 1) = true → s.keeps (s.sp - 2) = true → u.pc = v) := by
  obtain ⟨hpush, hpushMem, hsp, -⟩ := s.push16_spec v
  have hcall := (hpush.append ((s.push16 v).setPC_unchanged target)).mono (ch' := [.sp, .trace, .pc]) (by simp)
  obtain ⟨hret, hretMem, -, -, hretSp⟩ := ((s.push16 v).setPC target).returnFromStack_spec
  exact ⟨_, _, hx, rfl, (hcall.of_push_pop hret hsp hretSp).mono (by simp), hpushMem.trans hretMem,
    State.topWord_push16 v⟩

end Sys2Proof.Machine
end

section
/-! The statements settled: control transfer. -/

namespace Sys2Proof.Machine

/-- Settles O34: each is a jump to the relative target; DJNZ decrements B before it tests B. -/
theorem relativeJumps : Obligations.RelativeJumps := by
  intro s
  refine ⟨fun e => ?_, fun cc e => ?_, fun e => ?_⟩
  · exact runs_of_jump (fun _ => rfl) rfl (s.relative_toNat e)
  · exact runs_of_branch (fun _ => by cases cc <;> rfl) (exec_jrCc cc e s) (Unchanged.refl _ s) (MemUnchanged.refl _ s)
      (fun h => (if_pos h).mpr (s.relative_toNat e)) fun h => (if_neg h).mpr rfl
  · obtain ⟨hframe, hmem, hb⟩ := s.setR8_spec .b (s.b - 1)
    exact runs_of_branch (fun _ => rfl) (exec_djnz e s) hframe hmem
      (fun h => ⟨hb, (if_pos h).mpr (s.relative_toNat e)⟩) fun h => ⟨hb, (if_neg h).mpr rfl⟩

/-- Settles O35: a call is a push of the next address before a jump, and one whose condition fails is neither. -/
theorem callsAndRestart : Obligations.CallsAndRestart := by
  intro s
  refine ⟨fun mn => ?_, fun cc mn => ?_, fun v => ?_⟩
  · exact runs_of_call (fun _ => rfl) rfl
  · have henc : encode (.callCcMn cc mn) = [0xC4#8 + 8#8 * cc.code, loByte mn, hiByte mn] := by cases cc <;> rfl
    have hx := exec_callCcMn cc mn s
    split <;> rename_i h
    · rw [if_pos h] at hx
      exact runs_of_call (fun _ => henc) hx
    · rw [if_neg h] at hx
      exact completes_of_pass (fun _ => henc) hx
  · rw [← word16_zero]
    exact runs_of_call (fun h => by rw [encode, or_restartAddress h]) rfl

/-- Settles O36: a return pops PC, and one whose condition fails leaves the stack. -/
theorem returnsFromSubroutine : Obligations.ReturnsFromSubroutine := by
  intro s
  refine ⟨runs_of_return (fun _ => rfl) rfl, fun cc => ?_⟩
  have henc : encode (.retCc cc) = [0xC0#8 + 8#8 * cc.code] := by cases cc <;> rfl
  have hx := exec_retCc cc s
  split <;> rename_i h
  · rw [if_pos h] at hx
    exact runs_of_return (fun _ => henc) hx
  · rw [if_neg h] at hx
    exact completes_of_pass (fun _ => henc) hx

/-- Settles O37: both pop PC; after that RETI emits its event and RETN copies IFF2 to IFF1. -/
theorem returnsFromInterrupt : Obligations.ReturnsFromInterrupt := by
  intro s
  obtain ⟨hframe, hmem, htrans, hpc, hsp⟩ := s.returnFromStack_spec
  refine ⟨⟨fun _ => rfl, _, rfl, ?_, hmem, hpc, hsp, ?_⟩,
    ⟨fun _ => rfl, _, exec_retn s, ?_, hmem, hpc, hsp, htrans.congr rfl rfl rfl rfl, s.returnFromStack_iff2⟩⟩
  · exact (hframe.append (s.returnFromStack.emit_unchanged .reti)).mono (by simp)
  · exact htrans.append (s.returnFromStack.emit_transacts .reti rfl rfl fun _ => rfl) s.returnFromStack_memMap
  · exact (hframe.append s.returnFromStack.setIff_iff2_unchanged).mono (by simp)

/-- Settles O38: CALL and RST push the next address, and RET pops it. -/
theorem callThenReturnComesBack : Obligations.CallThenReturnComesBack := fun _ =>
  ⟨fun _ => exists_ret_of_call rfl, fun _ => exists_ret_of_call rfl⟩

/-- Settles O60: the acknowledge pushes PC and leaves IFF2, which RETN pops and copies to IFF1. -/
theorem returnFromNmiRestores : Obligations.ReturnFromNmiRestores := by
  intro s v
  obtain ⟨hack, hackMem, ⟨hdown, -⟩, -⟩ := ackNonMaskable_spec v s
  obtain ⟨-, u, hx, hret, hretMem, hpc, hup, -, hiff1⟩ := (returnsFromInterrupt (ackNonMaskable v s)).2
  have hpush := hack.mono (ch' := [.sp, .pc, .halted, .iff1, .nmiPending, .repeating, .memIn, .draws, .trace]) (by simp)
  refine ⟨u, hx, (hpush.of_push_pop hret hdown hup).mono (by simp), hackMem.trans hretMem,
    hiff1.trans (hack .iff2 (by decide)), fun h1 h2 => ?_⟩
  rw [← ackNonMaskable_topWord v h1 h2]
  exact BitVec.eq_of_toNat_eq (hpc.trans (State.readWord_toNat _ _).symm)

/-- Settles O33: each jump gives PC its target and writes nothing else. -/
theorem absoluteJumps : Obligations.AbsoluteJumps := by
  intro s
  refine ⟨fun mn => ?_, fun cc mn => ?_, ?_, ?_, ?_⟩
  · exact runs_of_jump (fun _ => rfl) rfl rfl
  · exact runs_of_branch (fun _ => by cases cc <;> rfl) (exec_jpCcMn cc mn s) (Unchanged.refl _ s)
      (MemUnchanged.refl _ s) (fun h => (if_pos h).symm) fun h => (if_neg h).symm
  · exact runs_of_jump (fun _ => rfl) rfl rfl
  · exact runs_of_jump (fun _ => rfl) rfl rfl
  · exact runs_of_jump (fun _ => rfl) rfl rfl

end Sys2Proof.Machine
end

section
/-! The I/O space: a byte read from a port into a register, a byte written to a port, and one iteration of a block input or
output (R64, R340 to R351). -/

namespace Sys2Proof.Machine

/-- The port of `IN A,(n)` and `OUT (n),A` as a number (R96). -/
theorem State.portAN_toNat (s : State) (n : Byte) : (s.portAN n).toNat = bytesToNat s.a n := word16_toNat s.a n

@[simp] theorem State.r8_writeFlags (s : State) (fl : Flags) (r : Reg8) : (s.writeFlags fl).r8 r = s.r8 r := by
  cases r <;> rfl

theorem State.ioReadDone_spec (s : State) (port : Word) :
    Unchanged [.ioIn, .trace, .draws] s (s.ioReadDone port) ∧ MemUnchanged [] s (s.ioReadDone port) ∧
      Transacts [.ioRead port (s.ioByte port)] s (s.ioReadDone port) :=
  ⟨fun x hx => by cases x <;> simp_all [Loc.Same], fun a _ => s.ioReadDone_cell port a, s.ioReadDone_transacts port⟩

/-- A register gets the byte read from a port. -/
theorem State.setR8_ioReadDone_spec (s : State) (r : Reg8) (port : Word) :
    let t := (s.ioReadDone port).setR8 r (s.ioByte port)
    Unchanged [.ofReg8 r, .ioIn, .trace, .draws] s t ∧ MemUnchanged [] s t ∧ t.r8 r = s.ioByte port ∧
      Transacts [.ioRead port (s.ioByte port)] s t := by
  intro t
  obtain ⟨hread, hreadMem, htrans⟩ := s.ioReadDone_spec port
  obtain ⟨hset, hsetMem, hval⟩ := (s.ioReadDone port).setR8_spec r (s.ioByte port)
  have hframe : Unchanged [.ofReg8 r, .ioIn, .trace, .draws] s t := (hread.append hset).mono (by simp)
  refine ⟨hframe, hreadMem.trans hsetMem, hval, htrans.congr ?_ ?_ ?_ ?_⟩ <;> simp [t]

/-- The flags of a block input or output, by the decremented B as a number (R344, R348, C11). -/
theorem State.blockIoFlags_eq (s : State) : s.blockIoFlags = blockPortFlags s (s.b - 1) := by
  rw [State.blockIoFlags, byte_beq_zero]
  rfl

section
variable {i : Instr} {bytes : List Byte} {s : State} {port delta : Word}

/-- An input that writes no flag (R340). -/
theorem completes_of_input {r : Reg8} (henc : i.wellFormed = true → encode i = bytes)
    (hx : exec i s = .next (((s.ioReadDone port).setR8 r (s.ioByte port)).advance bytes.length)) :
    Completes i bytes s [.ofReg8 r, .ioIn, .trace, .draws] [] fun t =>
      PortGives s (t.r8 r) ∧ Transacts [.ioRead port (t.r8 r)] s t := by
  obtain ⟨hframe, hmem, hval, htrans⟩ := s.setR8_ioReadDone_spec r port
  refine completes_of_advance _ henc hx rfl hframe (by cases r <;> decide) hmem ?_
  rw [State.r8_advance, hval]
  exact ⟨s.ioByte_portGives port, htrans.congr rfl rfl rfl rfl⟩

/-- An input with the flags of the byte (R341). -/
theorem completes_of_inputFlags {r : Reg8} (henc : i.wellFormed = true → encode i = bytes)
    (hx : exec i s = .next ((((s.ioReadDone port).setR8 r (s.ioByte port)).writeFlags
      (s.digitFlags (s.ioByte port))).advance bytes.length)) :
    Completes i bytes s [.ofReg8 r, .f, .ioIn, .trace, .draws] [] fun t =>
      PortGives s (t.r8 r) ∧ Transacts [.ioRead port (t.r8 r)] s t ∧
      t.flags = ⟨decide (128 ≤ (t.r8 r).toNat), decide ((t.r8 r).toNat = 0), false, evenOnes (t.r8 r), false,
        s.flags.c⟩ := by
  obtain ⟨hload, hmem, hval, htrans⟩ := s.setR8_ioReadDone_spec r port
  have hframe := (hload.append (State.writeFlags_unchanged _ (s.digitFlags (s.ioByte port)))).mono
    (ch' := [.ofReg8 r, .f, .ioIn, .trace, .draws]) (by simp)
  refine completes_of_advance _ henc hx rfl hframe (by cases r <;> decide) hmem ?_
  rw [State.r8_advance, State.r8_writeFlags, hval, State.advance_flags, State.flags_writeFlags]
  exact ⟨s.ioByte_portGives port, htrans.congr rfl rfl rfl rfl, s.digitFlags_eq _⟩

/-- An output (R342, R343). -/
theorem completes_of_output {v : Byte} (henc : i.wellFormed = true → encode i = bytes)
    (hx : exec i s = .next ((s.ioWrite port v).advance bytes.length)) :
    Completes i bytes s [.trace] [] fun t => Transacts [.ioWrite port v] s t :=
  completes_of_advance _ henc hx rfl (s.emit_unchanged (.ioWrite port v)) (by decide) (MemUnchanged.refl _ s)
    ((s.ioWrite_transacts port v).congr rfl rfl rfl rfl)

theorem inputsBlock_of_blockIn (henc : encode i = bytes)
    (hx : exec i s = .next ((s.blockIn delta).advance bytes.length)) : InputsBlock i bytes s delta := by
  obtain ⟨hframe, hmem, htrans, hb, hhl, hflags⟩ := s.blockIn_spec delta
  refine completes_of_advance _ (fun _ => henc) hx rfl hframe (by decide) hmem
    ⟨⟨_, s.ioByte_portGives s.bc, htrans.congr rfl rfl rfl rfl⟩, hb, hhl, ?_⟩
  rw [State.advance_flags, State.advance_b, hflags, hb, State.blockIoFlags_eq]

theorem outputsBlock_of_blockOut (henc : encode i = bytes)
    (hx : exec i s = .next ((s.blockOut delta).advance bytes.length)) : OutputsBlock i bytes s delta := by
  obtain ⟨hframe, hmem, htrans, hb, hhl, hflags⟩ := s.blockOut_spec delta
  refine completes_of_advance _ (fun _ => henc) hx rfl hframe (by decide) hmem
    ⟨htrans.congr rfl rfl rfl rfl, hb, hhl, ?_⟩
  rw [State.advance_flags, State.advance_b, hflags, hb, State.blockIoFlags_eq]

end

end Sys2Proof.Machine
end

section
/-! The statements settled: input and output. -/

namespace Sys2Proof.Machine

/-- Settles O39: both are a read of the port and a write of the register, after which only `IN r,(C)` writes F. -/
theorem portInput : Obligations.PortInput := by
  intro s
  refine ⟨fun n => ?_, fun r => ?_⟩
  · exact (completes_of_input (r := .a) (fun _ => rfl) rfl).imp fun _ ⟨hgives, htrans⟩ =>
      ⟨hgives, htrans, s.portAN_toNat n⟩
  · exact completes_of_inputFlags (fun _ => by cases r <;> rfl) rfl

/-- Settles O40: both are one write to the port. -/
theorem portOutput : Obligations.PortOutput := by
  intro s
  refine ⟨fun n => ?_, fun r => ?_⟩
  · exact (completes_of_output (fun _ => rfl) rfl).imp fun _ htrans => ⟨htrans, s.portAN_toNat n⟩
  · exact completes_of_output (fun _ => by cases r <;> rfl) rfl

/-- Settles O41: INI and IND are one `blockIn`, forwards and backwards. -/
theorem blockInputIteration : Obligations.BlockInputIteration := fun _ =>
  ⟨inputsBlock_of_blockIn rfl rfl, inputsBlock_of_blockIn rfl rfl⟩

/-- Settles O42: OUTI and OUTD are one `blockOut`, forwards and backwards. -/
theorem blockOutputIteration : Obligations.BlockOutputIteration := fun _ =>
  ⟨outputsBlock_of_blockOut rfl rfl, outputsBlock_of_blockOut rfl rfl⟩

end Sys2Proof.Machine
end

section
/-! What an undisturbed step runs: the decoder's instruction, after the fetch of as many bytes as its encoding has. -/

namespace Sys2Proof.Machine

/-- The decoder uses up the bytes of the encoding, so these are what is fetched. -/
theorem runInstruction_of_decode {s : State} {i : Instr} {rest : List Byte} (hd : decode s.fetch = .ok (i, rest)) :
    runInstruction s = exec i (s.fetched (encode i).length) := by
  have hlen : s.fetch.length - rest.length = (encode i).length := by
    rw [encode_of_decode hd, List.length_append, Nat.add_sub_cancel]
  rw [runInstruction, hd, ← hlen]

/-- With no request due, sampling uses up the sample and leaves the latch. -/
theorem State.sampled_unchanged_of_not_nmiDue {s : State} (hn : ¬ s.NmiDue) : Unchanged [.inputs] s s.sampled := by
  obtain ⟨hlatch, hline⟩ := s.not_nmiDue_iff.mp hn
  exact s.sampled_unchanged.of_same (show s.sampled.nmiPending = s.nmiPending by simp [hlatch, hline])

end Sys2Proof.Machine
end

section
/-! A boundary without a reset and without a bus request: the non-maskable request, then the maskable one, then the Halt state
(R402, R403). -/

namespace Sys2Proof.Machine
variable {s : State}

/-- `step_cases` where neither a reset nor the bus is requested. -/
theorem State.Free.step_cases (hf : s.Free) :
    (s.NmiDue ∧ step s = .next (ackNonMaskable s.sample.ivec s.sampled)) ∨
    (¬ s.NmiDue ∧ s.IntDue ∧ step s = ackMaskable s.sample.ivec s.sampled) ∨
    (¬ s.NmiDue ∧ ¬ s.IntDue ∧ s.halted = true ∧ step s = .next (s.sampled.emit .halt)) ∨
    (s.Undisturbed ∧ step s = runInstruction s.sampled) := by
  obtain ⟨hr, hd⟩ := hf
  rcases Machine.step_cases s with ⟨hu, -⟩ | ⟨hp, -⟩ | ⟨ws, -, hb, -⟩ | ⟨-, c⟩ | ⟨-, c⟩ | ⟨-, c⟩ | c
  · simp [hr] at hu
  · simp [hr] at hp
  · simp [hd] at hb
  · exact .inl c
  · exact .inr (.inl c)
  · exact .inr (.inr (.inl c))
  · exact .inr (.inr (.inr c))

theorem step_of_nmiDue (hf : s.Free) (hn : s.NmiDue) : step s = .next (ackNonMaskable s.sample.ivec s.sampled) := by
  rcases hf.step_cases with ⟨-, e⟩ | ⟨hno, -⟩ | ⟨hno, -⟩ | ⟨⟨-, hno, -⟩, -⟩
  · exact e
  all_goals exact absurd hn hno

theorem step_of_intDue (hf : s.Free) (hn : ¬ s.NmiDue) (hi : s.IntDue) : step s = ackMaskable s.sample.ivec s.sampled := by
  rcases hf.step_cases with ⟨hnmi, -⟩ | ⟨-, -, e⟩ | ⟨-, hno, -⟩ | ⟨⟨-, -, hno, -⟩, -⟩
  · exact absurd hnmi hn
  · exact e
  all_goals exact absurd hi hno

theorem step_of_halted (hf : s.Free) (hn : ¬ s.NmiDue) (hi : ¬ s.IntDue) (hh : s.halted = true) :
    step s = .next (s.sampled.emit .halt) := by
  rcases hf.step_cases with ⟨hnmi, -⟩ | ⟨-, hint, -⟩ | ⟨-, -, -, e⟩ | ⟨⟨-, -, -, hrun⟩, -⟩
  · exact absurd hnmi hn
  · exact absurd hint hi
  · exact e
  · simp [hh] at hrun

end Sys2Proof.Machine
end

section
/-! The maskable acknowledge in all modes (R410, R412, R413). -/

namespace Sys2Proof.Machine

/-- What the common part of an acknowledge did still stands when the enables are cleared. -/
theorem State.ackTaken_effect {s u : State} {before : List BusEvent} {entry : Nat}
    (hframe : Unchanged [.pc, .sp, .halted, .repeating, .memIn, .draws, .trace] s u)
    (hmem : MemUnchanged [s.sp - 1, s.sp - 2] s u) (hpush : PushedWord s.pc before s u) (hpc : u.pc.toNat = entry)
    (hhalt : u.halted = false) : let t := u.setIff false false
    (PushedWord s.pc before s t ∧ t.pc.toNat = entry) ∧ t.iff1 = false ∧ t.iff2 = false ∧ t.halted = false ∧
      Unchanged [.pc, .sp, .halted, .iff1, .iff2, .repeating, .memIn, .draws, .trace] s t ∧
      MemUnchanged [s.sp - 1, s.sp - 2] s t := by
  obtain ⟨hframe', hpush'⟩ := State.ackTaken_spec hframe hpush
  exact ⟨⟨hpush', hpc⟩, rfl, rfl, hhalt, hframe', hmem⟩

/-- Where the vector is not refused, the acknowledge pushes PC after the transactions of the mode, goes on at the entry of the
mode, and clears both enables. -/
theorem ackMaskable_spec {v : Byte} {s : State} (hv : s.im = .im2 → v.toNat % 2 = 0) : ∃ t, ackMaskable v s = .next t ∧
    (let u := s.readDone s.pc
      let table := word16 s.iReg v
      PushedWord s.pc (s.byteRead s.pc ++ [.iack v] ++ if s.im = .im2 then .idle :: u.wordRead table else []) s t ∧
      t.pc.toNat = if s.im = .im2 then u.wordAt table else 0x0038) ∧
    t.iff1 = false ∧ t.iff2 = false ∧ t.halted = false ∧
    Unchanged [.pc, .sp, .halted, .iff1, .iff2, .repeating, .memIn, .draws, .trace] s t ∧
    MemUnchanged [s.sp - 1, s.sp - 2] s t := by
  rcases ackMaskable_cases v s with ⟨him, hodd, -⟩ | ⟨him, -, e⟩ | ⟨him, e⟩
  · exact absurd (hv him) (by omega)
  · obtain ⟨hframe, hmem, hpush, hpc, hhalt, -⟩ := s.acknowledge2_spec v
    simp only [if_pos him]
    exact ⟨_, e, State.ackTaken_effect hframe hmem hpush hpc hhalt⟩
  · obtain ⟨hframe, hmem, hpush, hpc, hhalt, -⟩ := s.acknowledge_spec v 0x0038#16
    simp only [if_neg him, List.append_nil]
    exact ⟨_, e, State.ackTaken_effect hframe hmem hpush (congrArg BitVec.toNat hpc) hhalt⟩

end Sys2Proof.Machine
end

section
/-! The statements settled: boundaries and interrupts. -/

namespace Sys2Proof.Machine

/-- Settles O56: the step samples the lines, which sets the latch, and acknowledges, which clears it. -/
theorem nonMaskableAcknowledge : Obligations.NonMaskableAcknowledge := by
  intro s hf hn
  obtain ⟨hframe, hmem, hpush, hpc, hhalt, hiff1, hlatch⟩ := ackNonMaskable_spec s.sample.ivec s.sampled
  refine ⟨_, step_of_nmiDue hf hn, hpush.of_sampled, hpc, hiff1, hlatch, hhalt, ?_, hmem⟩
  exact (s.sampled_unchanged.append hframe).mono fun x hx => by simp at hx ⊢; tauto

/-- Settles O57: the step samples the lines, which leaves the latch clear, and takes the acknowledge of the mode. -/
theorem maskableAcknowledge : Obligations.MaskableAcknowledge := by
  intro s hf hn hi hv
  obtain ⟨t, e, ⟨hpush, hpc⟩, hiff1, hiff2, hhalt, hframe, hmem⟩ := ackMaskable_spec (s := s.sampled) hv
  refine ⟨t, (step_of_intDue hf hn hi).trans e, ⟨hpush.of_sampled, hpc⟩, hiff1, hiff2, hhalt, ?_, hmem⟩
  exact ((State.sampled_unchanged_of_not_nmiDue hn).append hframe).mono fun x hx => by simp at hx ⊢; tauto

/-- Settles O58: the step samples the lines, which leaves the latch clear, and adds one halt cycle to the trace. -/
theorem haltStateIdles : Obligations.HaltStateIdles := by
  intro s hf hn hi hh
  refine ⟨_, step_of_halted hf hn hi hh, rfl, ?_, fun _ _ => rfl⟩
  exact ((State.sampled_unchanged_of_not_nmiDue hn).append (s.sampled.emit_unchanged .halt)).mono (by simp)

/-- Settles O44: by the case split over the instructions of `exists_exec_next`. -/
theorem everyInstructionCompletes : Obligations.EveryInstructionCompletes := exists_exec_next

/-- Settles O45: the four bytes at PC are the encoding and what the decoder left, and the encoding is what is fetched. -/
theorem stepRunsDecodedInstruction : Obligations.StepRunsDecodedInstruction := by
  rintro s i ⟨hu, rest, hd⟩
  rw [← s.sampled_fetch] at hd
  have hrun : step s = runInstruction s.sampled := by rw [step_of_undisturbed hu, hu.sampled_eq]
  exact ⟨decode_wellFormed hd, _, hrun.trans (runInstruction_of_decode hd),
    State.fetched_fetchedAs hu.sampled_eq (encode_of_decode hd)⟩

end Sys2Proof.Machine
end
